-- ==== Sys2Proof/Word.lean ====
section
/-! DEFINITION. The word types of the block. Every quantity is an unsigned value of a stated width
(00_scope R15): registers and wire fields are bit vectors, addresses are naturals (R16). -/

namespace Sys2Proof

/-- One byte (20_memory R70). -/
abbrev Byte := BitVec 8

/-- A 16-bit wire field or register. -/
abbrev Half := BitVec 16

/-- A 32-bit wire field, register or host value. -/
abbrev Word := BitVec 32

end Sys2Proof
end

