-- ==== Sys2Proof/Config.lean ====
section
/-! DEFINITION. What an implementation fixes (00_scope R7, R9) and the free values (93 U1, U2). -/

namespace Sys2Proof

/-- The parameters the source leaves open and some rule reads (R9). Log 4: State carries them, and no
step changes them. -/
structure Config where
  /-- `MAX_DATAGRAM`, in bytes. -/
  maxDatagram : Nat
  /-- `MAX_DESC`, descriptors per received packet. -/
  maxDesc : Nat
  deriving DecidableEq, Repr

/-- The constraints of R9: `MAX_DATAGRAM >= 22` and
`1 <= MAX_DESC <= floor((MAX_DATAGRAM - 14) / 6)`. -/
def Config.wf (c : Config) : Bool :=
  decide (22 ≤ c.maxDatagram ∧ 1 ≤ c.maxDesc ∧ c.maxDesc ≤ (c.maxDatagram - 14) / 6)

/-- DESIGN CHOICE (log 4): the parameters that `State.reset` carries, those of 95_test_vectors:
`MAX_DATAGRAM = 2048` and the default `MAX_DESC = 339`. -/
def Config.testVectors : Config := { maxDatagram := 2048, maxDesc := 339 }

/-- The value of the `k`-th byte drawn from a frame buffer where nothing has been written: `any value`
(20_memory R73, 93 U1 and U2; log 5). It has no body, so no proof can see what it is. -/
opaque Config.freeByte : Nat → Byte

end Sys2Proof
end

