-- ==== Sys2Proof/Syntax.lean ====
section
/-! DEFINITION. The steps of the block as syntax: one constructor of `Instr` for each row of
spec/opcode_table.json (30_encoding R100 and the pattern rows named at its head). -/

namespace Sys2Proof

/-- The sink's answer to one `Sink.send` (00_scope R10). -/
inductive SinkAnswer where
  | ok
  | fail
  deriving DecidableEq, Repr

/-- A scanline descriptor (30_encoding R104): `LENGTH` in bytes, `LINE`, the continuation flag `C`,
`OFFSET` in pixels. -/
structure Descriptor where
  length : Half
  line   : Half
  c      : BitVec 1
  offset : BitVec 15
  deriving DecidableEq, Repr

/-- The two frame buffers (20_memory R70). -/
inductive Space where
  | txfb
  | rxfb
  deriving DecidableEq, Repr

/-- The steps of the block, in the order of spec/opcode_table.json. -/
inductive Instr where
  /-- `PACKD` (R140): pack one descriptor. -/
  | packd (length line : Half) (c : BitVec 1) (offset : BitVec 15)
  /-- `UNPKD` (R142): unpack the descriptor in these six bytes. -/
  | unpkd (b0 b1 b2 b3 b4 b5 : Byte)
  /-- `DESC.LAST` (R150): a descriptor with `C = 0`, which ends the chain. -/
  | descLast (length line : Half) (offset : BitVec 15)
  /-- `DESC.MORE` (R150): a descriptor with `C = 1`, after which one more is read. -/
  | descMore (length line : Half) (offset : BitVec 15)
  /-- `ENCH` (R144): encode one packet header, which uses up one sequence number. -/
  | ench (line : Half) (last : BitVec 1) (ts ssrc : Word) (stride : Half)
  /-- `DECH` (R150): decode the header of the datagram `d`. -/
  | dech (d : List Byte)
  /-- `PKT.LINE` (R174, R108): the `TXLINE` step that emits the protocol word `0x80600000 + seq`. -/
  | pktLine (seq : Half) (answer : SinkAnswer)
  /-- `PKT.LAST` (R174, R108): the `TXLINE` step that emits the protocol word `0x80E00000 + seq`. -/
  | pktLast (seq : Half) (answer : SinkAnswer)
  /-- `TXLINE` (R174): send one scanline; the sink gives this answer. -/
  | txline (answer : SinkAnswer)
  /-- `RXPKT.V1` (R195, R109): reassemble a datagram whose `W0` matches version 2 and type 96. -/
  | rxpktV1 (d : List Byte)
  /-- `RXPKT.V0` (R195, R109): reassemble a datagram with any other `W0`. -/
  | rxpktV0 (d : List Byte)
  /-- `NOP` (R235). -/
  | nop
  /-- `TXFRAME` (R170): start a transmit pass. -/
  | txframe
  /-- `RXFRAME` (R190): start a reassembly cycle. -/
  | rxframe
  /-- `RXREL` (R215): release a completed frame. -/
  | rxrel
  /-- `SOFTRST` (R236). -/
  | softrst
  /-- `CMD.RESERVED` (R237): a reserved command code. -/
  | cmdReserved (code : Byte)
  /-- `RXTMO` (R212): the receive timeout. -/
  | rxtmo
  /-- `REGRD` (R230): the host reads the register at this byte offset. -/
  | regrd (off : Word)
  /-- `REGWR` (R231): the host writes `v` to the register at this byte offset. -/
  | regwr (off v : Word)
  deriving DecidableEq, Repr

/-- Where a frame of the agenda is driven in (log 2, DESIGN CHOICE: the spec gives no instruction stream,
and several rows share one pattern of bits, so the port tells them apart). -/
inductive Port where
  | cmd | regrd | regwr | tx | src | tmo | packd | unpkd | desc | ench | dech | pkt
  deriving DecidableEq, Repr

/-- Why a frame is no step of the block. -/
inductive DecodeError where
  /-- The frame has no port byte. -/
  | emptyFrame
  /-- The port byte names no port. -/
  | unknownPort
  /-- A command frame that is not one code byte. -/
  | commandForm
  /-- A register access that is not whole and 32 bits wide (93 U11, log 18). -/
  | busAccessForm
  /-- The sink's answer is neither `OK` nor `FAIL` (R10). -/
  | sinkAnswerForm
  /-- The timeout event with an operand (R212: it has none). -/
  | timeoutForm
  /-- A descriptor that is not six bytes (R104). -/
  | descriptorForm
  /-- An `ENCH` pattern that is not 20 bytes (R108). -/
  | headerForm
  /-- An `ENCH` pattern whose constant fields differ from R148. -/
  | headerConstants
  /-- A protocol word the block never emits (R108). -/
  | notAnEmittedWord
  deriving DecidableEq, Repr

end Sys2Proof
end

