-- ==== Sys2Proof/WellFormed.lean ====
section
/-! DEFINITION. When a step is one the spec has: the datagram lengths of R11, the row of an offered
datagram (R109), the reserved codes of R120. The field widths are in the types of `Instr`. -/

namespace Sys2Proof

/-- The mask and match of `RXPKT.V1` on the first word of a datagram (R109: mask `0xC07F0000`, match
`0x80600000`): `V = 2` in bits 7:6 of byte 0 and `PT = 96` in bits 6:0 of byte 1. A datagram with no
whole first word does not match. -/
def datagramMatchesV1 : List Byte → Bool
  | b0 :: b1 :: _ :: _ :: _ => b0.extractLsb' 6 2 == 2#2 && b1.extractLsb' 0 7 == 96#7
  | _ => false

/-- The datagram's length is one the source may offer (R11). -/
def datagramLengthOk (cfg : Config) (d : List Byte) : Bool :=
  decide (d.length ≤ cfg.maxDatagram)

/-- The well-formed steps. -/
def wellFormed (cfg : Config) : Instr → Bool
  | .packd _ _ _ _ => true
  | .unpkd _ _ _ _ _ _ => true
  | .descLast _ _ _ => true
  | .descMore _ _ _ => true
  | .ench _ _ _ _ _ => true
  | .dech d => datagramLengthOk cfg d
  | .pktLine _ _ => true
  | .pktLast _ _ => true
  | .txline _ => true
  | .rxpktV1 d => datagramLengthOk cfg d && datagramMatchesV1 d
  | .rxpktV0 d => datagramLengthOk cfg d && !datagramMatchesV1 d
  | .nop => true
  | .txframe => true
  | .rxframe => true
  | .rxrel => true
  | .softrst => true
  | .cmdReserved code => decide (5 ≤ code.toNat)
  | .rxtmo => true
  | .regrd _ => true
  | .regwr _ _ => true

end Sys2Proof
end

