-- ==== Sys2Proof/Decode.lean ====
section
/-! DEFINITION. The byte order of the wire (00_scope R13, 20_memory R77), the descriptor and header
patterns (30_encoding R102 to R104, R108), the decoder of a frame of the agenda, the encoder, and the
opcode table's own numbering of bits. -/

namespace Sys2Proof

/-! ## Byte order: the most significant byte first -/

/-- `be16` of R14. -/
def be16 (v : Half) : List Byte := [v.extractLsb' 8 8, v.extractLsb' 0 8]

/-- `be32` of R14. -/
def be32 (v : Word) : List Byte :=
  [v.extractLsb' 24 8, v.extractLsb' 16 8, v.extractLsb' 8 8, v.extractLsb' 0 8]

/-- Byte `i` of a byte sequence. Every rule checks the length before it reads. -/
def byteAt (b : List Byte) (i : Nat) : Byte := b.getD i 0

/-- `BE16(b, i)` of R14. -/
def rd16 (b : List Byte) (i : Nat) : Half := byteAt b i ++ byteAt b (i + 1)

/-- `BE32(b, i)` of R14. -/
def rd32 (b : List Byte) (i : Nat) : Word := rd16 b i ++ rd16 b (i + 2)

/-- The low `8 * n` bits of a natural as `n` bytes, the most significant first. -/
def beBytes : Nat → Nat → List Byte
  | 0, _ => []
  | n + 1, w => BitVec.ofNat 8 (w / 256 ^ n) :: beBytes n w

/-! ## The descriptor (R104, R140, R142) -/

/-- `PACKD` (R140): `be16(LENGTH) ++ be16(LINE) ++ be16(C * 32768 + OFFSET)`. -/
def packDesc (D : Descriptor) : List Byte :=
  be16 D.length ++ be16 D.line ++ be16 (D.c ++ D.offset)

/-- `UNPKD` (R142) of the six bytes from index `i`: `C = OFFW[15]`, `OFFSET = OFFW[14:0]`. -/
def unpackDesc (b : List Byte) (i : Nat) : Descriptor :=
  { length := rd16 b i
    line   := rd16 b (i + 2)
    c      := (rd16 b (i + 4)).extractLsb' 15 1
    offset := (rd16 b (i + 4)).extractLsb' 0 15 }

/-! ## The header (R102, R103, R108) -/

/-- `RTP_VERSION` (R7). -/
def rtpVersion : BitVec 2 := 2#2

/-- `RTP_PT` (R7). -/
def rtpPayloadType : BitVec 7 := 96#7

/-- The protocol word of an emitted packet (R108, R144): `V = 2`, `P = X = 0`, `CC = 0`, the marker,
`PT = 96`, the sequence number. -/
def protocolWord (marker : BitVec 1) (seq : Half) : Word :=
  rtpVersion ++ 0#1 ++ 0#1 ++ 0#4 ++ marker ++ rtpPayloadType ++ seq

/-- The 20 bytes `ENCH` builds (R144). -/
def headerBytes (seq line : Half) (last : BitVec 1) (ts ssrc : Word) (stride : Half) : List Byte :=
  be32 (protocolWord last seq) ++ be32 ts ++ be32 ssrc ++ be16 0
    ++ packDesc { length := stride, line := line, c := 0, offset := 0 }

/-! ## The decoder -/

/-- What the decoder answers. -/
inductive Decoded where
  | instr (i : Instr)
  | reject (e : DecodeError)
  deriving DecidableEq, Repr

/-- The byte that names a port (log 2). -/
def portByte : Port → Byte
  | .cmd => 0 | .regrd => 1 | .regwr => 2 | .tx => 3 | .src => 4 | .tmo => 5
  | .packd => 6 | .unpkd => 7 | .desc => 8 | .ench => 9 | .dech => 10 | .pkt => 11

/-- The port a byte names. -/
def portOfByte (b : Byte) : Option Port :=
  match b.toNat with
  | 0 => some .cmd | 1 => some .regrd | 2 => some .regwr | 3 => some .tx
  | 4 => some .src | 5 => some .tmo | 6 => some .packd | 7 => some .unpkd
  | 8 => some .desc | 9 => some .ench | 10 => some .dech | 11 => some .pkt
  | _ => none

/-- The command codes (R120, R234). -/
def decodeCommand (code : Byte) : Instr :=
  match code.toNat with
  | 0 => .nop
  | 1 => .txframe
  | 2 => .rxframe
  | 3 => .rxrel
  | 4 => .softrst
  | _ => .cmdReserved code

/-- The sink's answer on the wire of the agenda: 0 is `OK`, 1 is `FAIL`. -/
def decodeAnswer (b : Byte) : Option SinkAnswer :=
  match b.toNat with
  | 0 => some .ok
  | 1 => some .fail
  | _ => none

/-- An offered datagram: the row of R109 whose mask and match its first word satisfies, the narrower
first (log 12). -/
def decodeOffer (d : List Byte) : Instr :=
  if datagramMatchesV1 d then .rxpktV1 d else .rxpktV0 d

/-- A six-byte descriptor: the row its `C` bit selects (R104, R150). -/
def decodeDesc (D : Descriptor) : Instr :=
  if D.c = 0 then .descLast D.length D.line D.offset else .descMore D.length D.line D.offset

/-- The constant fields of R148 in a 20-byte header: `V`, `P`, `X`, `CC`, `PT`, `EXTSEQ`, `C`,
`OFFSET`. -/
def headerConstantsOk (h : List Byte) : Bool :=
  byteAt h 0 == 0x80#8 && (byteAt h 1).extractLsb' 0 7 == rtpPayloadType
    && rd16 h 12 == 0 && rd16 h 18 == 0

/-- The operands of `ENCH` in its pattern. The field `s` of the pattern is `x[SEQ]`, not an operand, and
is not read (log 2). -/
def decodeHeader (h : List Byte) : Decoded :=
  if headerConstantsOk h then
    .instr (.ench (rd16 h 16) ((byteAt h 1).extractLsb' 7 1) (rd32 h 4) (rd32 h 8) (rd16 h 14))
  else .reject .headerConstants

/-- The two protocol words the block emits (R108): `PKT.LINE` has `0x8060` above the sequence number,
`PKT.LAST` has `0x80E0`. -/
def decodeEmitted (answer : SinkAnswer) (w : Word) : Decoded :=
  if w.extractLsb' 16 16 = 0x8060#16 then .instr (.pktLine (w.extractLsb' 0 16) answer)
  else if w.extractLsb' 16 16 = 0x80E0#16 then .instr (.pktLast (w.extractLsb' 0 16) answer)
  else .reject .notAnEmittedWord

/-- What stands after the port byte. -/
def decodeAt : Port → List Byte → Decoded
  | .cmd, [code] => .instr (decodeCommand code)
  | .cmd, _ => .reject .commandForm
  | .regrd, [a, b, c, d] => .instr (.regrd (rd32 [a, b, c, d] 0))
  | .regrd, _ => .reject .busAccessForm
  | .regwr, [a, b, c, d, e, f, g, h] =>
      .instr (.regwr (rd32 [a, b, c, d] 0) (rd32 [e, f, g, h] 0))
  | .regwr, _ => .reject .busAccessForm
  | .tx, [a] =>
      match decodeAnswer a with
      | some answer => .instr (.txline answer)
      | none => .reject .sinkAnswerForm
  | .tx, _ => .reject .sinkAnswerForm
  | .src, d => .instr (decodeOffer d)
  | .tmo, [] => .instr .rxtmo
  | .tmo, _ => .reject .timeoutForm
  | .packd, [a, b, c, d, e, f] =>
      let D := unpackDesc [a, b, c, d, e, f] 0
      .instr (.packd D.length D.line D.c D.offset)
  | .packd, _ => .reject .descriptorForm
  | .unpkd, [a, b, c, d, e, f] => .instr (.unpkd a b c d e f)
  | .unpkd, _ => .reject .descriptorForm
  | .desc, [a, b, c, d, e, f] => .instr (decodeDesc (unpackDesc [a, b, c, d, e, f] 0))
  | .desc, _ => .reject .descriptorForm
  | .ench, h => if h.length = 20 then decodeHeader h else .reject .headerForm
  | .dech, d => .instr (.dech d)
  | .pkt, [a, b, c, d, e] =>
      match decodeAnswer a with
      | some answer => decodeEmitted answer (rd32 [b, c, d, e] 0)
      | none => .reject .sinkAnswerForm
  | .pkt, _ => .reject .notAnEmittedWord

/-- The decoder of one frame of the agenda: total on any bytes, rejecting by name. -/
def decode : List Byte → Decoded
  | [] => .reject .emptyFrame
  | p :: b =>
      match portOfByte p with
      | some port => decodeAt port b
      | none => .reject .unknownPort

/-! ## The encoder -/

/-- The byte of a sink's answer. -/
def answerByte : SinkAnswer → Byte
  | .ok => 0
  | .fail => 1

/-- The frame of a step: its port byte, then the operands in the row's own pattern (R104, R108, R109,
R120). -/
def encode : Instr → List Byte
  | .packd length line c offset =>
      portByte .packd :: packDesc { length := length, line := line, c := c, offset := offset }
  | .unpkd b0 b1 b2 b3 b4 b5 => [portByte .unpkd, b0, b1, b2, b3, b4, b5]
  | .descLast length line offset =>
      portByte .desc :: packDesc { length := length, line := line, c := 0, offset := offset }
  | .descMore length line offset =>
      portByte .desc :: packDesc { length := length, line := line, c := 1, offset := offset }
  | .ench line last ts ssrc stride => portByte .ench :: headerBytes 0 line last ts ssrc stride
  | .dech d => portByte .dech :: d
  | .pktLine seq answer => portByte .pkt :: answerByte answer :: be32 (protocolWord 0 seq)
  | .pktLast seq answer => portByte .pkt :: answerByte answer :: be32 (protocolWord 1 seq)
  | .txline answer => [portByte .tx, answerByte answer]
  | .rxpktV1 d => portByte .src :: d
  | .rxpktV0 d => portByte .src :: d
  | .nop => [portByte .cmd, 0x00]
  | .txframe => [portByte .cmd, 0x01]
  | .rxframe => [portByte .cmd, 0x02]
  | .rxrel => [portByte .cmd, 0x03]
  | .softrst => [portByte .cmd, 0x04]
  | .cmdReserved code => [portByte .cmd, code]
  | .rxtmo => [portByte .tmo]
  | .regrd off => portByte .regrd :: be32 off
  | .regwr off v => portByte .regwr :: (be32 off ++ be32 v)

/-! ## The opcode table's numbering -/

/-- The frame of a table word (log 3). Every pattern of the table is one big-endian value whose bit 0 is
the least significant bit of its last byte. A descriptor row may be given by its low 16 bits alone
(`OFFW`), since the table fixes only bit 15. A first word that the block emits is driven in at the
`pkt` port with the answer `OK`; any other first word is the start of an offered datagram whose other
16 header bytes are 0. A 112-bit word is the start of a datagram with one descriptor of zeros. -/
def tableFrame (nbits w : Nat) : List Byte :=
  match nbits with
  | 0 => [portByte .tmo]
  | 8 => portByte .cmd :: beBytes 1 w
  | 16 => portByte .desc :: beBytes 6 (w % 65536)
  | 32 =>
      if w / 65536 % 65536 = 0x8060 ∨ w / 65536 % 65536 = 0x80E0 then
        portByte .pkt :: answerByte .ok :: beBytes 4 w
      else portByte .src :: (beBytes 4 w ++ List.replicate 16 0)
  | 48 => portByte .desc :: beBytes 6 w
  | 112 => portByte .dech :: (beBytes 14 w ++ List.replicate 6 0)
  | 160 => portByte .ench :: beBytes 20 w
  | _ => []

/-- The step the decoder reads from a table word. -/
def decodeTableWord (nbits w : Nat) : Option Instr :=
  match decode (tableFrame nbits w) with
  | .instr i => some i
  | .reject _ => none

end Sys2Proof
end

