-- ==== Sys2Proof/Machine/State.lean ====
section
/-! DEFINITION. The state of one session (10_state R20), the parameters, the agenda and the log of what
the block hands out, as plain data; the reasons a step can stop; the state after reset (R47, R290). -/

namespace Sys2Proof.Machine

/-- `RX_STATUS.STATE` (R37); the value 3 is never produced (93 U10). -/
inductive RxState where
  | idle
  | receiving
  | complete
  deriving DecidableEq, Repr

/-- `TX_STATUS.RESULT` (R35); the value 3 is never produced. -/
inductive TxResult where
  | none
  | ok
  | sendFailure
  deriving DecidableEq, Repr

/-- `RX_STATUS.RESULT` (R37); the value 3 is never produced. -/
inductive RxResult where
  | none
  | complete
  | timeout
  deriving DecidableEq, Repr

/-- The reason a datagram was dropped (R205), also the sub-code of `MALFORMED_PACKET` (R251). -/
inductive DropReason where
  | short
  | tooMany
  | chain
  | payload
  | line
  | span
  | nonmatch
  deriving DecidableEq, Repr

/-- The exceptions the block raises (R251). Code 4, `TRANSPORT_SETUP_ERROR`, is never raised by the block
(R274) and has no constructor. -/
inductive Exc where
  | malformedPacket
  | sendFailure
  | timeout
  | cfgError
  | busy
  | badCmd
  | locked
  | nonmatch
  | seqGap
  deriving DecidableEq, Repr

/-- The decoded header record of `DECH` (R150). -/
structure Header where
  w0     : Word
  v      : BitVec 2
  p      : BitVec 1
  x      : BitVec 1
  cc     : BitVec 4
  m      : BitVec 1
  pt     : BitVec 7
  seq    : Half
  ts     : Word
  ssrc   : Word
  extseq : Half
  deriving DecidableEq, Repr

/-- The result of `DECH` (R150). -/
inductive DechResult where
  | ok (hdr : Header) (descs : List Descriptor) (payoff : Nat)
  | malformed (sub : DropReason) (idx : Nat)
  deriving DecidableEq, Repr

/-- What the block hands to its environment (log 16). -/
inductive Output where
  /-- A packet handed to the sink, with the sink's answer (R10, R174). -/
  | sent (pkt : List Byte) (answer : SinkAnswer)
  /-- The value a `REGRD` returns (R230). -/
  | value (v : Word)
  /-- The bytes `PACKD` or `ENCH` returns (R140, R144). -/
  | bytes (b : List Byte)
  /-- The descriptor `UNPKD` returns (R142). -/
  | desc (d : Descriptor)
  /-- One turn of the chain loop of `DECH` (R150): the descriptor added, and whether one more is read. -/
  | chainLink (d : Descriptor) (more : Bool)
  /-- The result of `DECH` (R150). -/
  | decoded (r : DechResult)
  /-- The bytes a host read of a frame buffer returns (R238). -/
  | bufferBytes (b : List Byte)
  deriving DecidableEq, Repr

/-- One entry of the agenda: the next step of the total order of R87, with its input (log 1). -/
inductive Event where
  /-- A step of the table, as a frame for the decoder. -/
  | frame (bytes : List Byte)
  /-- The host writes these bytes to a frame buffer from offset `addr` upward (R70, R238). -/
  | bufferWrite (sp : Space) (addr : Nat) (bytes : List Byte)
  /-- The host reads `n` bytes of a frame buffer from offset `addr` (R70, R238). -/
  | bufferRead (sp : Space) (addr n : Nat)
  /-- The reset input is asserted and released (R290). -/
  | hardReset
  deriving DecidableEq, Repr

/-- The registers of the map (R40). -/
inductive Reg where
  | cmd | ctrl | width | height | ssrc | ts | tsTick | seq | rxTimeout
  | txStatus | txLine | rxStatus | rxPktCnt | rxByteCnt | rxDropCnt | rxGapCnt | rxSeqExpect
  | rxhW0 | rxhTs | rxhSsrc | rxhExtseq | rxhNdesc | rxhPayoff
  | errStatus | errInfo | irqStatus | irqEnable
  deriving DecidableEq, Repr

/-- The access column of R40. -/
inductive Access where
  | rw | ro | wo | w1c
  deriving DecidableEq, Repr

/-- A frame buffer: the bytes something has written, at strictly rising offsets. An unlisted byte has no
value (20_memory R73). -/
abbrev Memory := List Host.Cell

/-- The state. The last four fields are the model's own (INVENTORY.md, State). -/
structure State where
  /-- `CTRL` (R34): bit 0 `VALIDATE`, bit 1 `SEQCHK`. -/
  ctrl        : BitVec 2
  width       : BitVec 15
  height      : Half
  ssrc        : Word
  ts          : Word
  tsTick      : Word
  seq         : Half
  rxTimeout   : Word
  /-- `TX_STATUS.BUSY` (R35). -/
  txBusy      : Bool
  /-- `TX_STATUS.RESULT` (R35). -/
  txResult    : TxResult
  txLine      : Half
  /-- `RX_STATUS.STATE` (R37). -/
  rxState     : RxState
  /-- `RX_STATUS.RESULT` (R37). -/
  rxResult    : RxResult
  /-- `RX_STATUS.SEQ_VALID` (R37). -/
  seqValid    : Bool
  /-- `RX_STATUS.LAST_DROP` (R37); `none` is the value 0. -/
  lastDrop    : Option DropReason
  rxPktCnt    : Word
  rxByteCnt   : Word
  rxDropCnt   : Word
  rxGapCnt    : Word
  rxSeqExpect : Half
  rxhW0       : Word
  rxhTs       : Word
  rxhSsrc     : Word
  rxhExtseq   : Half
  rxhNdesc    : Half
  rxhPayoff   : Half
  errStatus   : Word
  errInfo     : Word
  /-- `IRQ_STATUS` (R43): bit 0 `TX_DONE`, bit 1 `RX_DONE`. -/
  irqStatus   : BitVec 2
  irqEnable   : BitVec 2
  /-- The transmit frame buffer (R70). -/
  txfb        : Memory
  /-- The receive frame buffer (R70). -/
  rxfb        : Memory
  /-- The parameters of 00_scope R9 (log 4). -/
  cfg         : Config
  /-- The steps still to be taken (log 1). -/
  agenda      : List Event
  /-- What the block has handed out, oldest first (log 16). -/
  out         : List Output
  /-- How many free bytes have been drawn (log 5). -/
  draws       : Nat
  deriving DecidableEq, Repr

/-- Why the machine stops with a fault. -/
inductive Fault where
  /-- Raised by a host access to a frame buffer that reaches an offset no geometry gives (R70, R75; log
  11). Safe: the model stops where a platform with more memory might go on. -/
  | bufferAccessOutsideAnyGeometry
  deriving DecidableEq, Repr

/-- Why a step has no meaning. -/
inductive Refusal where
  /-- Raised by an arm of `exec` that has no meaning yet. Safe. -/
  | notModelled (mnemonic : String)
  /-- Raised by the step when the frame is no step of the block (log 2, log 18). Safe. -/
  | undecodedFrame (e : DecodeError)
  /-- Raised by the step when a datagram is longer than `MAX_DATAGRAM`, which the source never offers
  (R11, log 17). Safe. -/
  | datagramTooLong
  deriving DecidableEq, Repr

/-- The state after reset (R47, R290): every register 0, both buffers without a value, and the model's
own fields as logs 1, 4, 5 and 16 say. -/
def State.reset : State where
  ctrl := 0
  width := 0
  height := 0
  ssrc := 0
  ts := 0
  tsTick := 0
  seq := 0
  rxTimeout := 0
  txBusy := false
  txResult := .none
  txLine := 0
  rxState := .idle
  rxResult := .none
  seqValid := false
  lastDrop := none
  rxPktCnt := 0
  rxByteCnt := 0
  rxDropCnt := 0
  rxGapCnt := 0
  rxSeqExpect := 0
  rxhW0 := 0
  rxhTs := 0
  rxhSsrc := 0
  rxhExtseq := 0
  rxhNdesc := 0
  rxhPayoff := 0
  errStatus := 0
  errInfo := 0
  irqStatus := 0
  irqEnable := 0
  txfb := []
  rxfb := []
  cfg := Config.testVectors
  agenda := []
  out := []
  draws := 0

end Sys2Proof.Machine
end

