-- ==== Sys2Proof/Machine/Flags.lean ====
section
/-! DEFINITION. The codes of exceptions and drop reasons (60_exceptions R251, 42_reassembler R205), the
status words (10_state R35, R37), the completion bits and the interrupt output (R43), the lock rule (R23). -/

namespace Sys2Proof.Machine

/-- The code of an exception, also its bit in `ERR_STATUS` (R41, R251). -/
def excCode : Exc → Nat
  | .malformedPacket => 1
  | .sendFailure => 2
  | .timeout => 3
  | .cfgError => 5
  | .busy => 6
  | .badCmd => 7
  | .locked => 8
  | .nonmatch => 9
  | .seqGap => 10

/-- The number of a drop reason (R205, R37). -/
def dropCode : DropReason → Nat
  | .short => 1
  | .tooMany => 2
  | .chain => 3
  | .payload => 4
  | .line => 5
  | .span => 6
  | .nonmatch => 7

/-- `RX_STATUS.LAST_DROP` as its four bits (R37). -/
def lastDropBits : Option DropReason → BitVec 4
  | none => 0
  | some r => BitVec.ofNat 4 (dropCode r)

/-- `TX_STATUS.RESULT` as its two bits (R35). -/
def txResultBits : TxResult → BitVec 2
  | .none => 0
  | .ok => 1
  | .sendFailure => 2

/-- `RX_STATUS.STATE` as its two bits (R37). -/
def rxStateBits : RxState → BitVec 2
  | .idle => 0
  | .receiving => 1
  | .complete => 2

/-- `RX_STATUS.RESULT` as its two bits (R37). -/
def rxResultBits : RxResult → BitVec 2
  | .none => 0
  | .complete => 1
  | .timeout => 2

/-- `TX_STATUS` (R35): `BUSY` in bit 0, `RESULT` in bits 2:1. -/
def txStatusWord (s : State) : Word :=
  0#29 ++ txResultBits s.txResult ++ BitVec.ofBool s.txBusy

/-- `RX_STATUS` (R37): `STATE` in bits 1:0, `RESULT` in 3:2, `SEQ_VALID` in 4, `LAST_DROP` in 11:8. -/
def rxStatusWord (s : State) : Word :=
  0#20 ++ lastDropBits s.lastDrop ++ 0#3 ++ BitVec.ofBool s.seqValid ++ rxResultBits s.rxResult
    ++ rxStateBits s.rxState

/-- `CTRL.VALIDATE` (R34). -/
def validateOn (s : State) : Bool := s.ctrl.getLsbD 0

/-- `CTRL.SEQCHK` (R34). -/
def seqchkOn (s : State) : Bool := s.ctrl.getLsbD 1

/-- The bit `TX_DONE` of `IRQ_STATUS` (R43). -/
def txDoneBit : BitVec 2 := 1

/-- The bit `RX_DONE` of `IRQ_STATUS` (R43). -/
def rxDoneBit : BitVec 2 := 2

/-- The interrupt output (R43, R262): `(IRQ_STATUS AND IRQ_ENABLE) != 0`. -/
def irqOutput (s : State) : Bool := s.irqStatus &&& s.irqEnable != 0

/-- A register is locked while an operation that reads it is in flight (R23). -/
def lockedReg (r : Reg) (s : State) : Bool :=
  match r with
  | .width | .height => s.txBusy || s.rxState == .receiving
  | .ssrc | .ts | .tsTick | .seq => s.txBusy
  | .rxTimeout | .ctrl => s.rxState == .receiving
  | _ => false

end Sys2Proof.Machine
end

