-- ==== Sys2Proof/Machine/Operands.lean ====
section
/-! DEFINITION. The operands of the operations: the register map (10_state R40), the value a register
reads as (R21, R230), the bits a write stores (R232), the geometry (00_scope R8, 20_memory R70, R71). -/

namespace Sys2Proof.Machine

/-- The registers, in the order of their offsets. -/
def allRegs : List Reg :=
  [.cmd, .ctrl, .width, .height, .ssrc, .ts, .tsTick, .seq, .rxTimeout, .txStatus, .txLine, .rxStatus,
    .rxPktCnt, .rxByteCnt, .rxDropCnt, .rxGapCnt, .rxSeqExpect, .rxhW0, .rxhTs, .rxhSsrc, .rxhExtseq,
    .rxhNdesc, .rxhPayoff, .errStatus, .errInfo, .irqStatus, .irqEnable]

/-- The offset column of R40. -/
def regOffset : Reg → Word
  | .cmd => 0x00
  | .ctrl => 0x04
  | .width => 0x08
  | .height => 0x0C
  | .ssrc => 0x10
  | .ts => 0x14
  | .tsTick => 0x18
  | .seq => 0x1C
  | .rxTimeout => 0x20
  | .txStatus => 0x24
  | .txLine => 0x28
  | .rxStatus => 0x2C
  | .rxPktCnt => 0x30
  | .rxByteCnt => 0x34
  | .rxDropCnt => 0x38
  | .rxGapCnt => 0x3C
  | .rxSeqExpect => 0x40
  | .rxhW0 => 0x44
  | .rxhTs => 0x48
  | .rxhSsrc => 0x4C
  | .rxhExtseq => 0x50
  | .rxhNdesc => 0x54
  | .rxhPayoff => 0x58
  | .errStatus => 0x5C
  | .errInfo => 0x60
  | .irqStatus => 0x64
  | .irqEnable => 0x68

/-- The access column of R40. -/
def regAccess : Reg → Access
  | .cmd => .wo
  | .ctrl | .width | .height | .ssrc | .ts | .tsTick | .seq | .rxTimeout | .irqEnable => .rw
  | .errStatus | .irqStatus => .w1c
  | .txStatus | .txLine | .rxStatus | .rxPktCnt | .rxByteCnt | .rxDropCnt | .rxGapCnt | .rxSeqExpect
  | .rxhW0 | .rxhTs | .rxhSsrc | .rxhExtseq | .rxhNdesc | .rxhPayoff | .errInfo => .ro

/-- The register at an offset; an offset that is not in the table of R40 is unmapped. -/
def regAt (off : Word) : Option Reg := allRegs.find? fun r => regOffset r == off

/-- `zext_32(x[R])` (R230): the value of a register on the host interface. `CMD` holds nothing and reads
0 (R44). -/
def regValue (r : Reg) (s : State) : Word :=
  match r with
  | .cmd => 0
  | .ctrl => s.ctrl.setWidth 32
  | .width => s.width.setWidth 32
  | .height => s.height.setWidth 32
  | .ssrc => s.ssrc
  | .ts => s.ts
  | .tsTick => s.tsTick
  | .seq => s.seq.setWidth 32
  | .rxTimeout => s.rxTimeout
  | .txStatus => txStatusWord s
  | .txLine => s.txLine.setWidth 32
  | .rxStatus => rxStatusWord s
  | .rxPktCnt => s.rxPktCnt
  | .rxByteCnt => s.rxByteCnt
  | .rxDropCnt => s.rxDropCnt
  | .rxGapCnt => s.rxGapCnt
  | .rxSeqExpect => s.rxSeqExpect.setWidth 32
  | .rxhW0 => s.rxhW0
  | .rxhTs => s.rxhTs
  | .rxhSsrc => s.rxhSsrc
  | .rxhExtseq => s.rxhExtseq.setWidth 32
  | .rxhNdesc => s.rxhNdesc.setWidth 32
  | .rxhPayoff => s.rxhPayoff.setWidth 32
  | .errStatus => s.errStatus
  | .errInfo => s.errInfo
  | .irqStatus => s.irqStatus.setWidth 32
  | .irqEnable => s.irqEnable.setWidth 32

/-- The value a `REGRD` of an offset returns (R230): 0 for `CMD` and for an unmapped offset. -/
def readOffset (off : Word) (s : State) : Word :=
  match regAt off with
  | some r => regValue r s
  | none => 0

/-- `x[R] <- the implemented bits of v` for a register with access `RW` (R232). -/
def storeReg (r : Reg) (v : Word) (s : State) : State :=
  match r with
  | .ctrl => { s with ctrl := v.setWidth 2 }
  | .width => { s with width := v.setWidth 15 }
  | .height => { s with height := v.setWidth 16 }
  | .ssrc => { s with ssrc := v }
  | .ts => { s with ts := v }
  | .tsTick => { s with tsTick := v }
  | .seq => { s with seq := v.setWidth 16 }
  | .rxTimeout => { s with rxTimeout := v }
  | .irqEnable => { s with irqEnable := v.setWidth 2 }
  | _ => s

/-- `x[R] <- x[R] AND NOT v` for a register with access `W1C` (R233). -/
def clearReg (r : Reg) (v : Word) (s : State) : State :=
  match r with
  | .errStatus => { s with errStatus := s.errStatus &&& ~~~v }
  | .irqStatus => { s with irqStatus := s.irqStatus &&& ~~~(v.setWidth 2) }
  | _ => s

/-- `stride = 2 * x[WIDTH]` bytes (R8). -/
def stride (s : State) : Nat := 2 * s.width.toNat

/-- `FB_BYTES = x[WIDTH] * x[HEIGHT] * 2` (R8, R70). -/
def fbBytes (s : State) : Nat := s.width.toNat * s.height.toNat * 2

/-- The bytes of the largest geometry (R24, R25): no frame buffer offset reaches it (log 11). -/
def largestFbBytes : Nat := 32767 * 65535 * 2

/-- The offset of scanline `TX_LINE` in `TXFB` (R71, R175). -/
def rowAddr (s : State) : Nat := s.txLine.toNat * stride s

/-- `dst = LINE * stride + OFFSET * 2` (R16, R107, R208). -/
def dstAddr (rowStride : Nat) (D : Descriptor) : Nat := D.line.toNat * rowStride + D.offset.toNat * 2

/-- Scanline `TX_LINE` is the last of the frame, `L = H - 1` (R177). -/
def isLastLine (s : State) : Bool := decide (s.txLine.toNat + 1 = s.height.toNat)

end Sys2Proof.Machine
end

