-- ==== Sys2Proof/Machine/Ops.lean ====
section
/-! DEFINITION. The named operations over memory and state: the frame buffers (20_memory R70, R73, R80),
the log of what is handed out, raising an exception (60_exceptions R252), dropping a datagram (R205).
There is no return from an exception (R273): the host recovers by ordinary steps. -/

namespace Sys2Proof.Machine

/-! ## Frame buffers -/

/-- The byte at an offset, if something has written it. -/
def memGet : Memory → Nat → Option Byte
  | [], _ => none
  | (k, b) :: m, a => if k = a then some b else memGet m a

/-- Write one byte, keeping the offsets strictly rising. -/
def memSet : Memory → Nat → Byte → Memory
  | [], a, v => [(a, v)]
  | (k, b) :: m, a, v =>
      if a < k then (a, v) :: (k, b) :: m
      else if a = k then (a, v) :: m
      else (k, b) :: memSet m a v

/-- `MemWrite` (R14, R80): the bytes at ascending offsets from `a`, lowest first. -/
def memWrite : Memory → Nat → List Byte → Memory
  | m, _, [] => m
  | m, a, b :: bs => memWrite (memSet m a b) (a + 1) bs

/-- The offsets of a buffer rise strictly from a bound. -/
def risesFrom : Nat → Memory → Bool
  | _, [] => true
  | lo, (k, _) :: m => decide (lo ≤ k) && risesFrom (k + 1) m

/-- The canonical form of a frame buffer: strictly rising offsets. An unlisted byte has no value, so no
listed byte equals it. -/
def Memory.wf (m : Memory) : Bool := risesFrom 0 m

/-- Read one byte. A byte nothing has written is a free draw (R73, 93 U1 and U2; log 5), and the counter
of draws advances. -/
def readByte (m : Memory) (a k : Nat) : Byte × Nat :=
  match memGet m a with
  | some b => (b, k)
  | none => (Config.freeByte k, k + 1)

/-- `MemRead` (R14, R80): `n` bytes at ascending offsets from `a`, and the counter of draws after them. -/
def memRead (m : Memory) : Nat → Nat → Nat → List Byte × Nat
  | 0, _, k => ([], k)
  | n + 1, a, k =>
      let r := readByte m a k
      let rest := memRead m n (a + 1) r.2
      (r.1 :: rest.1, rest.2)

/-! ## What is handed out -/

/-- Hand one thing to the environment. -/
def handOut (o : Output) (s : State) : State := { s with out := s.out ++ [o] }

/-! ## Exceptions -/

/-- `ERR_INFO = INFO * 65536 + SUB * 256 + CODE` (R42, R252). -/
def errInfoWord (code sub : BitVec 8) (info : Half) : Word := info ++ (sub ++ code)

/-- `raise E(sub, info)` (R252): the sticky bit and `ERR_INFO`, and nothing else. -/
def raise (e : Exc) (sub : BitVec 8) (info : Half) (s : State) : State :=
  { s with
    errStatus := s.errStatus ||| BitVec.twoPow 32 (excCode e)
    errInfo := errInfoWord (BitVec.ofNat 8 (excCode e)) sub info }

/-- `DROP(reason)` (R195, R205). -/
def drop (r : DropReason) (s : State) : State :=
  { s with rxDropCnt := s.rxDropCnt + 1, lastDrop := some r }

/-- A datagram is dropped as malformed (R197, R201, R202): `DROP(sub)`, then `MALFORMED_PACKET` with the
reason as sub-code and the index of the descriptor that failed. -/
def dropMalformed (r : DropReason) (idx : Nat) (s : State) : State :=
  raise .malformedPacket (BitVec.ofNat 8 (dropCode r)) (BitVec.ofNat 16 idx) (drop r s)

end Sys2Proof.Machine
end

