-- ==== Sys2Proof/Machine/Codec.lean ====
section
/-! DEFINITION. The header codec (40_header_codec): `PACKD`, `UNPKD`, the two descriptor rows, `ENCH`,
`DECH`. -/

namespace Sys2Proof.Machine

/-- `PACKD` (R140). -/
def execPackd (length line : Half) (c : BitVec 1) (offset : BitVec 15) (s : State) :
    Host.Outcome State Fault Refusal :=
  .next (handOut (.bytes (packDesc { length := length, line := line, c := c, offset := offset })) s)

/-- `UNPKD` (R142). -/
def execUnpkd (b0 b1 b2 b3 b4 b5 : Byte) (s : State) : Host.Outcome State Fault Refusal :=
  .next (handOut (.desc (unpackDesc [b0, b1, b2, b3, b4, b5] 0)) s)

/-- The test `D.C = 0` at the end of a turn of the chain loop (R150): the chain goes on when `C = 1`. -/
def chainGoesOn (D : Descriptor) : Bool := D.c != 0

/-- One turn of the chain loop with the descriptor `D` (R150; log 14): it is added to the chain, and the
loop goes on or ends. -/
def chainTurn (D : Descriptor) (s : State) : State := handOut (.chainLink D (chainGoesOn D)) s

/-- `DESC.LAST` (R150): a descriptor with `C = 0` ends the chain. -/
def execDescLast (length line : Half) (offset : BitVec 15) (s : State) :
    Host.Outcome State Fault Refusal :=
  .next (chainTurn { length := length, line := line, c := 0, offset := offset } s)

/-- `DESC.MORE` (R150): after a descriptor with `C = 1` one more is read, subject to R152. -/
def execDescMore (length line : Half) (offset : BitVec 15) (s : State) :
    Host.Outcome State Fault Refusal :=
  .next (chainTurn { length := length, line := line, c := 1, offset := offset } s)

/-! ## ENCH -/

/-- The header `ENCH` returns (R144): it carries the value `x[SEQ]` has before the call (R147). -/
def enchHeader (line : Half) (last : BitVec 1) (ts ssrc : Word) (rowBytes : Half) (s : State) :
    List Byte :=
  headerBytes s.seq line last ts ssrc rowBytes

/-- The side effect of `ENCH` (R147): `x[SEQ] <- (x[SEQ] + 1) mod 65536`. -/
def enchAdvance (s : State) : State := { s with seq := s.seq + 1 }

/-- `ENCH` (R144). -/
def execEnch (line : Half) (last : BitVec 1) (ts ssrc : Word) (rowBytes : Half) (s : State) :
    Host.Outcome State Fault Refusal :=
  .next (handOut (.bytes (enchHeader line last ts ssrc rowBytes s)) (enchAdvance s))

/-! ## DECH -/

/-- The fixed 14 bytes of a datagram (R102, R103, R150). -/
def readHeader (d : List Byte) : Header :=
  let w0 := rd32 d 0
  { w0 := w0
    v := w0.extractLsb' 30 2
    p := w0.extractLsb' 29 1
    x := w0.extractLsb' 28 1
    cc := w0.extractLsb' 24 4
    m := w0.extractLsb' 23 1
    pt := w0.extractLsb' 16 7
    seq := w0.extractLsb' 0 16
    ts := rd32 d 4
    ssrc := rd32 d 8
    extseq := rd16 d 12 }

/-- The chain loop of `DECH` (R150, R152) at index `n`, with room for `room = MAX_DESC - n` more
descriptors: the count cap, then the length cap, then the descriptor. -/
def readChain (d : List Byte) (len : Nat) : Nat → Nat → Except (DropReason × Nat) (List Descriptor)
  | 0, n => .error (.tooMany, n)
  | room + 1, n =>
      if 14 + 6 * (n + 1) > len then .error (.chain, n)
      else
        let D := unpackDesc d (14 + 6 * n)
        if chainGoesOn D then
          match readChain d len room (n + 1) with
          | .ok ds => .ok (D :: ds)
          | .error e => .error e
        else .ok [D]

/-- The payload loop of `DECH` (R150, R153) at position `pos` and index `i`: the index of the first
descriptor whose payload would end past `len`. -/
def payloadFault (len : Nat) : List Descriptor → Nat → Nat → Option Nat
  | [], _, _ => none
  | D :: ds, pos, i =>
      if pos + D.length.toNat > len then some i
      else payloadFault len ds (pos + D.length.toNat) (i + 1)

/-- `payoff = 14 + 6 * n` (R150). -/
def payloadOffset (descs : List Descriptor) : Nat := 14 + 6 * descs.length

/-- `DECH(d, len)` with `len = len(d)` (R150). -/
def dech (cfg : Config) (d : List Byte) : DechResult :=
  if d.length < 20 then .malformed .short 0
  else
    match readChain d d.length cfg.maxDesc 0 with
    | .error (sub, idx) => .malformed sub idx
    | .ok descs =>
        match payloadFault d.length descs (payloadOffset descs) 0 with
        | some i => .malformed .payload i
        | none => .ok (readHeader d) descs (payloadOffset descs)

/-- `DECH` (R150). -/
def execDech (d : List Byte) (s : State) : Host.Outcome State Fault Refusal :=
  .next (handOut (.decoded (dech s.cfg d)) s)

end Sys2Proof.Machine
end

