-- ==== Sys2Proof/Machine/Fragmenter.lean ====
section
/-! DEFINITION. The fragmenter (41_fragmenter): `TXFRAME`, `TXLINE` and the two emitted protocol words. -/

namespace Sys2Proof.Machine

/-- `TXFRAME` (R170): refused with `BUSY` while a pass is in flight (R171), with `CFG_ERROR` for an
illegal geometry or a packet above `MAX_DATAGRAM` (R172), else it starts a pass. -/
def txframe (s : State) : State :=
  if s.txBusy then raise .busy 0 0x01 s
  else if s.width = 0 ∨ s.height = 0 then raise .cfgError 1 0x01 s
  else if 20 + stride s > s.cfg.maxDatagram then raise .cfgError 2 0x01 s
  else { s with txBusy := true, txResult := .none, txLine := 0 }

/-- `TXFRAME` (R170). -/
def execTxframe (s : State) : Host.Outcome State Fault Refusal := .next (txframe s)

/-- The gather of `TXLINE` (R175): the `stride` bytes of scanline `TX_LINE`, and the counter of draws. -/
def gatherRow (s : State) : List Byte × Nat := memRead s.txfb (stride s) (rowAddr s) s.draws

/-- The packet of scanline `TX_LINE` (R176): the header of `ENCH`, then the row. -/
def linePacket (s : State) : List Byte :=
  enchHeader s.txLine (BitVec.ofBool (isLastLine s)) s.ts s.ssrc (BitVec.ofNat 16 (stride s)) s
    ++ (gatherRow s).1

/-- What every `TXLINE` step does whatever the sink answers (R174): `ENCH` advances `SEQ`, the row is
read, the packet is handed over. -/
def emitLine (answer : SinkAnswer) (s : State) : State :=
  handOut (.sent (linePacket s) answer) (enchAdvance { s with draws := (gatherRow s).2 })

/-- The end of a pass (R174, R179, R180): the result, `BUSY = 0`, one tick of the timestamp,
`TX_DONE`. -/
def endPass (r : TxResult) (s : State) : State :=
  { s with
    txResult := r
    txBusy := false
    ts := s.ts + s.tsTick
    irqStatus := s.irqStatus ||| txDoneBit }

/-- `TXLINE` (R174). Enabled exactly while `BUSY = 1` (R173); otherwise the engine has no step and
nothing changes (log 6). -/
def txline (answer : SinkAnswer) (s : State) : State :=
  if s.txBusy then
    match answer with
    | .fail => raise .sendFailure 0 s.txLine (endPass .sendFailure (emitLine .fail s))
    | .ok =>
        let t := { emitLine .ok s with txLine := s.txLine + 1 }
        if isLastLine s then endPass .ok t else t
  else s

/-- `TXLINE` (R174). -/
def execTxline (answer : SinkAnswer) (s : State) : Host.Outcome State Fault Refusal :=
  .next (txline answer s)

/-- The `TXLINE` step that emits a given protocol word (R108, R174; log 13): the step is this one exactly
when the scanline's place in the frame and `x[SEQ]` give that word. -/
def txlineEmitting (last : Bool) (seq : Half) (answer : SinkAnswer) (s : State) : State :=
  if isLastLine s = last ∧ s.seq = seq then txline answer s else s

/-- `PKT.LINE` (R174): the protocol word of a scanline other than the last. -/
def execPktLine (seq : Half) (answer : SinkAnswer) (s : State) : Host.Outcome State Fault Refusal :=
  .next (txlineEmitting false seq answer s)

/-- `PKT.LAST` (R174): the protocol word of scanline `HEIGHT - 1`. -/
def execPktLast (seq : Half) (answer : SinkAnswer) (s : State) : Host.Outcome State Fault Refusal :=
  .next (txlineEmitting true seq answer s)

end Sys2Proof.Machine
end

