-- ==== Sys2Proof/Machine/Reassembler.lean ====
section
/-! DEFINITION. The reassembler (42_reassembler): `RXFRAME`, `RXPKT`, `RXTMO`, `RXREL`. -/

namespace Sys2Proof.Machine

/-- `RXFRAME` (R190): refused with `BUSY` outside Idle, with `CFG_ERROR` for an illegal geometry (R191),
else it starts a cycle. -/
def rxframe (s : State) : State :=
  if s.rxState ≠ .idle then raise .busy 0 0x02 s
  else if s.width = 0 ∨ s.height = 0 then raise .cfgError 1 0x02 s
  else
    { s with
      rxState := .receiving
      rxResult := .none
      lastDrop := none
      rxPktCnt := 0
      rxByteCnt := 0
      rxDropCnt := 0 }

/-- `RXFRAME` (R190). -/
def execRxframe (s : State) : Host.Outcome State Fault Refusal := .next (rxframe s)

/-! ## RXPKT -/

/-- Check 2 (R199, R200): with `VALIDATE = 1`, a version other than 2 or a type other than 96. -/
def nonMatching (hdr : Header) (s : State) : Bool :=
  validateOn s && (hdr.v != rtpVersion || hdr.pt != rtpPayloadType)

/-- Check 3 (R201, R202) from descriptor `i`: the first descriptor that fails, `LINE` before `SPAN`. -/
def geometryFault (rowStride height : Nat) : List Descriptor → Nat → Option (DropReason × Nat)
  | [], _ => none
  | D :: ds, i =>
      if D.line.toNat ≥ height then some (.line, i)
      else if D.offset.toNat * 2 + D.length.toNat > rowStride then some (.span, i)
      else geometryFault rowStride height ds (i + 1)

/-- The received sequence number is flagged as a gap (R206). -/
def seqGapSeen (seq : Half) (s : State) : Bool :=
  seqchkOn s && s.seqValid && seq != s.rxSeqExpect

/-- Sequence bookkeeping of an accepted datagram (R206). -/
def trackSeq (seq : Half) (s : State) : State :=
  let t := if seqGapSeen seq s then raise .seqGap 0 seq { s with rxGapCnt := s.rxGapCnt + 1 } else s
  { t with rxSeqExpect := seq + 1, seqValid := true }

/-- The header latch (R207, R39). -/
def latchHeader (hdr : Header) (n payoff : Nat) (s : State) : State :=
  { s with
    rxhW0 := hdr.w0
    rxhTs := hdr.ts
    rxhSsrc := hdr.ssrc
    rxhExtseq := hdr.extseq
    rxhNdesc := BitVec.ofNat 16 n
    rxhPayoff := BitVec.ofNat 16 payoff }

/-- The scatter write (R208): descriptors in packet order, each one's payload at position `pos`. -/
def scatter (rowStride : Nat) (d : List Byte) : List Descriptor → Nat → Memory → Memory
  | [], _, m => m
  | D :: ds, pos, m =>
      scatter rowStride d ds (pos + D.length.toNat)
        (memWrite m (dstAddr rowStride D) ((d.drop pos).take D.length.toNat))

/-- The sum of the `LENGTH` fields (R209). -/
def totalLength : List Descriptor → Nat
  | [] => 0
  | D :: ds => D.length.toNat + totalLength ds

/-- Statistics of an accepted datagram (R209). -/
def countAccepted (bytes : Nat) (s : State) : State :=
  { s with rxPktCnt := s.rxPktCnt + 1, rxByteCnt := s.rxByteCnt + BitVec.ofNat 32 bytes }

/-- Completion (R210, R211): a marker ends the cycle. -/
def completeOn (marker : BitVec 1) (s : State) : State :=
  if marker = 1 then
    { s with
      rxState := .complete
      rxResult := .complete
      irqStatus := s.irqStatus ||| rxDoneBit }
  else s

/-- An accepted datagram (R195, R203). -/
def acceptDatagram (d : List Byte) (hdr : Header) (descs : List Descriptor) (payoff : Nat) (s : State) :
    State :=
  let t := latchHeader hdr descs.length payoff (trackSeq hdr.seq s)
  completeOn hdr.m
    (countAccepted (totalLength descs) { t with rxfb := scatter (stride s) d descs payoff s.rxfb })

/-- One datagram in state Receiving (R195): structure, then validation, then geometry (R198). -/
def receiveDatagram (d : List Byte) (s : State) : State :=
  match dech s.cfg d with
  | .malformed sub idx => dropMalformed sub idx s
  | .ok hdr descs payoff =>
      if nonMatching hdr s then raise .nonmatch 0 (hdr.w0.extractLsb' 16 16) (drop .nonmatch s)
      else
        match geometryFault (stride s) s.height.toNat descs 0 with
        | some (sub, idx) => dropMalformed sub idx s
        | none => acceptDatagram d hdr descs payoff s

/-- `RXPKT(d, len)` (R195). Enabled exactly in state Receiving; in Idle and Complete the engine does not
pull, and nothing changes (R194; logs 6, 7). -/
def rxpkt (d : List Byte) (s : State) : State :=
  if s.rxState = .receiving then receiveDatagram d s else s

/-- `RXPKT.V1` (R195, R109; log 12). -/
def execRxpktV1 (d : List Byte) (s : State) : Host.Outcome State Fault Refusal := .next (rxpkt d s)

/-- `RXPKT.V0` (R195, R109; log 12). -/
def execRxpktV0 (d : List Byte) (s : State) : Host.Outcome State Fault Refusal := .next (rxpkt d s)

/-! ## RXTMO and RXREL -/

/-- `RXTMO` is enabled in state Receiving with a non-zero `RX_TIMEOUT` (R212). -/
def timeoutEnabled (s : State) : Bool := s.rxState == .receiving && s.rxTimeout != 0

/-- `RXTMO` (R212). Where it is not enabled there is no step and nothing changes (log 6). -/
def rxtmo (s : State) : State :=
  if timeoutEnabled s then
    raise .timeout 0 (s.rxPktCnt.extractLsb' 0 16)
      { s with
        rxState := .idle
        rxResult := .timeout
        irqStatus := s.irqStatus ||| rxDoneBit }
  else s

/-- `RXTMO` (R212). -/
def execRxtmo (s : State) : Host.Outcome State Fault Refusal := .next (rxtmo s)

/-- `RXREL` (R215): Complete to Idle; refused with `BAD_CMD` sub-code 2 in any other state. -/
def rxrel (s : State) : State :=
  if s.rxState = .complete then { s with rxState := .idle } else raise .badCmd 2 0x03 s

/-- `RXREL` (R215). -/
def execRxrel (s : State) : Host.Outcome State Fault Refusal := .next (rxrel s)

end Sys2Proof.Machine
end

