-- ==== Sys2Proof/Machine/HostInterface.lean ====
section
/-! DEFINITION. The host interface (43_host_commands): `NOP`, `SOFTRST`, the reserved codes, `REGRD`,
`REGWR`; and the host's accesses to the frame buffers and the reset input (R238, R290). -/

namespace Sys2Proof.Machine

/-- `NOP` (R235): no effect. -/
def nop (s : State) : State := s

/-- `NOP` (R235). -/
def execNop (s : State) : Host.Outcome State Fault Refusal := .next (nop s)

/-- Every register of R40 takes its reset value (R236, R290). The buffers and the model's own fields
stay. -/
def resetRegs (s : State) : State :=
  { State.reset with
    txfb := s.txfb
    rxfb := s.rxfb
    cfg := s.cfg
    agenda := s.agenda
    out := s.out
    draws := s.draws }

/-- `SOFTRST` (R236, R292): the buffers keep their contents. -/
def softrst (s : State) : State := resetRegs s

/-- `SOFTRST` (R236). -/
def execSoftrst (s : State) : Host.Outcome State Fault Refusal := .next (softrst s)

/-- A reserved command code (R237). -/
def reservedCommand (code : Byte) (s : State) : State := raise .badCmd 1 (code.setWidth 16) s

/-- `CMD.RESERVED` (R237). -/
def execCmdReserved (code : Byte) (s : State) : Host.Outcome State Fault Refusal :=
  .next (reservedCommand code s)

/-- `COMMAND(c)` (R234). -/
def command (code : Byte) (s : State) : State :=
  match code.toNat with
  | 0 => nop s
  | 1 => txframe s
  | 2 => rxframe s
  | 3 => rxrel s
  | 4 => softrst s
  | _ => reservedCommand code s

/-- `REGRD(off)` (R230). -/
def execRegrd (off : Word) (s : State) : Host.Outcome State Fault Refusal :=
  .next (handOut (.value (readOffset off s)) s)

/-- `REGWR(off, v)` for a mapped register (R231). -/
def writeReg (r : Reg) (off v : Word) (s : State) : State :=
  match regAccess r with
  | .wo => command (v.setWidth 8) s
  | .rw => if lockedReg r s then raise .locked 0 (off.setWidth 16) s else storeReg r v s
  | .w1c => clearReg r v s
  | .ro => s

/-- `REGWR(off, v)` (R231): an unmapped offset ignores the write. -/
def regwr (off v : Word) (s : State) : State :=
  match regAt off with
  | some r => writeReg r off v s
  | none => s

/-- `REGWR` (R231). -/
def execRegwr (off v : Word) (s : State) : Host.Outcome State Fault Refusal := .next (regwr off v s)

/-! ## The frame buffers and the reset input -/

/-- A frame buffer. -/
def buffer (sp : Space) (s : State) : Memory :=
  match sp with
  | .txfb => s.txfb
  | .rxfb => s.rxfb

/-- Replace a frame buffer. -/
def setBuffer (sp : Space) (m : Memory) (s : State) : State :=
  match sp with
  | .txfb => { s with txfb := m }
  | .rxfb => { s with rxfb := m }

/-- The offsets `addr` to `addr + n - 1` lie in the buffer of the largest geometry (log 11). -/
def insideLargestBuffer (addr n : Nat) : Bool := decide (addr + n ≤ largestFbBytes)

/-- The host writes a frame buffer (R70, R238). The block raises nothing for it and does not arbitrate
it, whatever is in flight (R300, R301; log 8). -/
def hostWrite (sp : Space) (addr : Nat) (bytes : List Byte) (s : State) :
    Host.Outcome State Fault Refusal :=
  if insideLargestBuffer addr bytes.length then
    .next (setBuffer sp (memWrite (buffer sp s) addr bytes) s)
  else .fault .bufferAccessOutsideAnyGeometry

/-- The host reads a frame buffer (R70, R238): the bytes as the steps so far have left them (R87, R301),
a free byte where nothing has been written (93 U2). -/
def hostRead (sp : Space) (addr n : Nat) (s : State) : Host.Outcome State Fault Refusal :=
  if insideLargestBuffer addr n then
    let r := memRead (buffer sp s) n addr s.draws
    .next (handOut (.bufferBytes r.1) { s with draws := r.2 })
  else .fault .bufferAccessOutsideAnyGeometry

/-- The reset input (R290, R291): every register at its reset value; the bytes of both buffers
unspecified (log 9). -/
def hardReset (s : State) : State := { resetRegs s with txfb := [], rxfb := [] }

end Sys2Proof.Machine
end

