-- ==== Sys2Proof/Machine/Dispatch.lean ====
section
/-! DEFINITION. The meaning of every step of the table: one arm for each constructor of `Instr`. -/

namespace Sys2Proof.Machine

def exec (i : Instr) (s : State) : Host.Outcome State Fault Refusal :=
  match i with
  | .packd length line c offset => Sys2Proof.Machine.execPackd length line c offset s
  | .unpkd b0 b1 b2 b3 b4 b5 => Sys2Proof.Machine.execUnpkd b0 b1 b2 b3 b4 b5 s
  | .descLast length line offset => Sys2Proof.Machine.execDescLast length line offset s
  | .descMore length line offset => Sys2Proof.Machine.execDescMore length line offset s
  | .ench line last ts ssrc stride => Sys2Proof.Machine.execEnch line last ts ssrc stride s
  | .dech d => Sys2Proof.Machine.execDech d s
  | .pktLine seq answer => Sys2Proof.Machine.execPktLine seq answer s
  | .pktLast seq answer => Sys2Proof.Machine.execPktLast seq answer s
  | .txline answer => Sys2Proof.Machine.execTxline answer s
  | .rxpktV1 d => Sys2Proof.Machine.execRxpktV1 d s
  | .rxpktV0 d => Sys2Proof.Machine.execRxpktV0 d s
  | .nop => Sys2Proof.Machine.execNop s
  | .txframe => Sys2Proof.Machine.execTxframe s
  | .rxframe => Sys2Proof.Machine.execRxframe s
  | .rxrel => Sys2Proof.Machine.execRxrel s
  | .softrst => Sys2Proof.Machine.execSoftrst s
  | .cmdReserved code => Sys2Proof.Machine.execCmdReserved code s
  | .rxtmo => Sys2Proof.Machine.execRxtmo s
  | .regrd off => Sys2Proof.Machine.execRegrd off s
  | .regwr off v => Sys2Proof.Machine.execRegwr off v s

end Sys2Proof.Machine
end

