-- ==== Sys2Proof/Machine/Step.lean ====
section
/-! DEFINITION. One step of the machine: the head of the agenda is the next step of the total order
(20_memory R87; log 1). With an empty agenda nothing happens: nothing runs until the host issues a
command (R290), and an engine with no enabled step waits. -/

namespace Sys2Proof.Machine

/-- One entry of the agenda, in the state whose agenda holds what comes after it. -/
def runEvent (e : Event) (s : State) : Host.Outcome State Fault Refusal :=
  match e with
  | .frame bytes =>
      match decode bytes with
      | .reject why => .refused (.undecodedFrame why)
      | .instr i => if wellFormed s.cfg i then exec i s else .refused .datagramTooLong
  | .bufferWrite sp addr bytes => hostWrite sp addr bytes s
  | .bufferRead sp addr n => hostRead sp addr n s
  | .hardReset => .next (hardReset s)

/-- One step. -/
def step (s : State) : Host.Outcome State Fault Refusal :=
  match s.agenda with
  | [] => .next s
  | e :: rest => runEvent e { s with agenda := rest }

/-- The state with a table word as the next step (log 1, log 3). -/
def State.withFetchWord (s : State) (nbits w : Nat) : State :=
  { s with agenda := .frame (tableFrame nbits w) :: s.agenda }

end Sys2Proof.Machine
end

