-- ==== Sys2Proof/Machine/Script.lean ====
section
/-! DEFINITION. The script notation of 30_encoding R125 and the pseudo-operations of R126 as entries of
the agenda (log 22). No step reads this file. -/

namespace Sys2Proof.Machine.Script

/-- `wr REG, v` (R125). -/
def wr (r : Reg) (v : Word) : Event := .frame (encode (.regwr (regOffset r) v))

/-- `rd REG` (R125). -/
def rd (r : Reg) : Event := .frame (encode (.regrd (regOffset r)))

/-- `cmd NAME`, by its code (R120, R125). -/
def cmd (code : Word) : Event := wr .cmd code

/-- `txfb[a] = bytes` (R125). -/
def txfbSet (a : Nat) (bytes : List Byte) : Event := .bufferWrite .txfb a bytes

/-- `rxfb[a..b]` (R125): the bytes at offsets `a` to `b` inclusive. -/
def rxfbGet (a b : Nat) : Event := .bufferRead .rxfb a (b + 1 - a)

/-- `step TX, sink OK` and `step TX, sink FAIL` (R125). -/
def stepTx (answer : SinkAnswer) : Event := .frame (encode (.txline answer))

/-- `step RX, src bytes` (R125). -/
def stepRx (d : List Byte) : Event := .frame (portByte .src :: d)

/-- `step RX, tmo` (R125). -/
def stepTmo : Event := .frame (encode .rxtmo)

/-- `clrerr mask` (R126). -/
def clrerr (mask : Word) : Event := wr .errStatus mask

/-- `ackirq mask` (R126). -/
def ackirq (mask : Word) : Event := wr .irqStatus mask

/-- `sendFrame(buffer)` (R126) up to its polling loop: write the frame, issue `TXFRAME`. -/
def sendFrameStart (frame : List Byte) : List Event := [txfbSet 0 frame, cmd 1]

/-- One poll of `sendFrame` (R126); the count of scanlines sent is read with `rd TX_LINE`. -/
def sendFramePoll : List Event := [rd .txStatus, rd .txLine]

/-- `receiveFrame(timeout)` (R126) up to its polling loop. -/
def receiveFrameStart (timeout : Word) : List Event := [wr .rxTimeout timeout, cmd 2]

/-- One poll of `receiveFrame` (R126). -/
def receiveFramePoll : List Event := [rd .rxStatus]

/-- The end of `receiveFrame` in state Complete (R126): read the `n` bytes of the frame, release it. -/
def receiveFrameEnd (n : Nat) : List Event := [.bufferRead .rxfb 0 n, cmd 3]

end Sys2Proof.Machine.Script
end

