-- ==== Sys2Proof/Safety.lean ====
section
/-! DEFINITION. What the statements speak of beside the machine: the invariant of the block, a run with the
other agents' steps in it (00_scope R5), what is in flight (00_scope R17), when a datagram is accepted
(42_reassembler R203), which steps carry a command. -/

namespace Sys2Proof.Machine

/-- Every listed offset lies inside the buffer of the largest geometry. That a host access beyond it faults
is the model's choice (log 11). -/
def insideBuffer (m : Memory) : Bool := m.all fun c => decide (c.1 < largestFbBytes)

/-- The bits of `ERR_STATUS` that some exception sets (10_state R41): 1, 2, 3 and 5 to 10. -/
def raisableBits : Word := 0x7EE

/-- The codes `ERR_INFO.CODE` can hold (R42, R251, 93 U10). -/
def recordedCodes : List Nat := [0, 1, 2, 3, 5, 6, 7, 8, 9, 10]

/-- The invariant that every step keeps. -/
structure Inv (s : State) : Prop where
  /-- The parameters meet R9. -/
  params : s.cfg.wf = true
  /-- The buffers keep their canonical form. -/
  txCanonical : s.txfb.wf = true
  rxCanonical : s.rxfb.wf = true
  /-- No byte lies outside the buffer of the largest geometry (log 11: the model's choice; R75 says it of
  the block's own accesses). -/
  txInside : insideBuffer s.txfb = true
  rxInside : insideBuffer s.rxfb = true
  /-- During a pass: `TX_LINE < HEIGHT` (R173), a legal geometry (R172), no result yet (R35). -/
  pass : s.txBusy = true →
    s.txLine.toNat < s.height.toNat ∧ s.width ≠ 0 ∧ 20 + stride s ≤ s.cfg.maxDatagram
      ∧ s.txResult = .none
  /-- During a cycle: a legal geometry (R191), no result yet (R37). -/
  cycle : s.rxState = .receiving → s.width ≠ 0 ∧ s.height ≠ 0 ∧ s.rxResult = .none
  /-- A completed frame has the result `COMPLETE` (R210). -/
  completed : s.rxState = .complete → s.rxResult = .complete
  /-- `ERR_STATUS` bits 0, 4 and 11 to 31 are never set (R41, R274, 93 U10). -/
  reservedErr : s.errStatus &&& ~~~raisableBits = 0
  /-- `ERR_INFO.CODE` is a code of R251 (93 U10). -/
  recorded : (s.errInfo.extractLsb' 0 8).toNat ∈ recordedCodes
  /-- Before the first accepted datagram `RX_SEQ_EXPECT` is 0 (R38). -/
  noSeqYet : s.seqValid = false → s.rxSeqExpect = 0
  /-- After it the latched payload offset is `14 + 6 * n` (R39), both cut to 16 bits where a count is longer
  (log 10: the model's choice). -/
  latched : s.seqValid = true → s.rxhPayoff = 14 + 6 * s.rxhNdesc

/-- A pass or a cycle is in flight (R17): the state is not final. -/
def inFlight (s : State) : Bool := s.txBusy || s.rxState == .receiving

/-- The step carries the command with this code: the command's own row, or a write to `CMD` with that low
byte (R44, R120, R234). -/
def carriesCommand (code : Byte) (i : Instr) : Bool :=
  match i with
  | .regwr off v => off == 0 && v.setWidth 8 == code
  | i => i == decodeCommand code

/-- The step is an `RXPKT` with this datagram (R195). -/
def offers (d : List Byte) (i : Instr) : Bool := i == .rxpktV1 d || i == .rxpktV0 d

/-! ## A run of the machine, the steps of every agent among it (R5, 20_memory R87) -/

/-- The machine's step with this entry at the head of the agenda. -/
def stepOn (e : Event) (s : State) : Host.Outcome State Fault Refusal :=
  step { s with agenda := e :: s.agenda }

/-- A sequence of entries, each the next step of the machine, up to the first fault or refusal. -/
def runAll : List Event → State → Host.Outcome State Fault Refusal
  | [], s => .next s
  | e :: es, s =>
      match stepOn e s with
      | .next t => runAll es t
      | .fault r => .fault r
      | .refused r => .refused r

/-- The step of the table that an entry names. -/
def entryStep : Event → Option Instr
  | .frame b =>
      match decode b with
      | .instr i => some i
      | .reject _ => none
  | _ => none

/-- The datagram that an entry offers to the reassembler (R195). -/
def offeredBy (e : Event) : Option (List Byte) :=
  match entryStep e with
  | some (.rxpktV1 d) | some (.rxpktV0 d) => some d
  | _ => none

/-- The entry stops no machine: a well-formed step (log 2, log 17), an access inside the buffer of the largest
geometry (log 11), or the reset input. -/
def legalEntry (cfg : Config) (e : Event) : Bool :=
  match e with
  | .frame _ => match entryStep e with
      | some i => wellFormed cfg i
      | none => false
  | .bufferWrite _ a bytes => insideLargestBuffer a bytes.length
  | .bufferRead _ a n => insideLargestBuffer a n
  | .hardReset => true

/-- The entry writes this buffer. -/
def writesBuffer (sp : Space) (e : Event) : Bool :=
  match e with
  | .bufferWrite sp' _ _ => sp' == sp
  | _ => false

/-- The entry abandons what is in flight: `SOFTRST` (R236) or the reset input (R290). -/
def abandons (e : Event) : Bool :=
  match entryStep e with
  | some i => carriesCommand 4 i
  | none => e == .hardReset

/-- The step builds a packet header and so uses up a sequence number (R147): a step of the TX engine, or
`ENCH` driven as a step of its own (log 15). -/
def buildsHeader (i : Instr) : Bool :=
  match i with
  | .txline _ | .pktLine _ _ | .pktLast _ _ | .ench _ _ _ _ _ => true
  | _ => false

/-- The step is one of the RX engine (R5): `RXPKT` or `RXTMO`. -/
def stepsReassembler (i : Instr) : Bool :=
  match i with
  | .rxpktV1 _ | .rxpktV0 _ | .rxtmo => true
  | _ => false

/-- An entry of another agent during a transmit pass: any entry that does not abandon the pass and builds no
header. The host's accesses to both buffers are among them. -/
def besidePass (cfg : Config) (e : Event) : Bool :=
  legalEntry cfg e && !abandons e && !(entryStep e).any buildsHeader

/-- An entry of another agent during a reassembly cycle: any entry that does not abandon the cycle, is no step
of the RX engine and does not write the buffer that the cycle owns (R301). -/
def besideCycle (cfg : Config) (e : Event) : Bool :=
  legalEntry cfg e && !abandons e && !(entryStep e).any stepsReassembler && !writesBuffer .rxfb e

/-- The packets handed to the sink so far, oldest first, each with the sink's answer (R10). -/
def sentPackets (s : State) : List (List Byte × SinkAnswer) :=
  s.out.filterMap fun o =>
    match o with
    | .sent p a => some (p, a)
    | _ => none

/-! ## Datagrams -/

/-- A descriptor inside the geometry (R201, R202). -/
def descriptorFits (s : State) (D : Descriptor) : Prop :=
  D.line.toNat < s.height.toNat ∧ D.offset.toNat * 2 + D.length.toNat ≤ 2 * s.width.toNat

/-- The datagram is non-matching (R199): validation is on, and `V` is not 2 or `PT` is not 96. -/
def rejectedByValidation (s : State) (hdr : Header) : Prop :=
  s.ctrl.getLsbD 0 = true ∧ (hdr.v ≠ 2 ∨ hdr.pt ≠ 96)

/-- An accepted datagram (R203): it decodes, it is not non-matching, and every descriptor fits. -/
def acceptedAs (s : State) (d : List Byte) (hdr : Header) (descs : List Descriptor) : Prop :=
  dech s.cfg d = .ok hdr descs (14 + 6 * descs.length) ∧ ¬ rejectedByValidation s hdr
    ∧ ∀ D ∈ descs, descriptorFits s D

/-- The first byte of `RXFB` that descriptor `i` of a datagram addresses (R208). -/
def descriptorStart (s : State) (D : Descriptor) : Nat :=
  D.line.toNat * (2 * s.width.toNat) + D.offset.toNat * 2

/-- The offset is one that the descriptor's span covers (R208). -/
def covers (s : State) (D : Descriptor) (a : Nat) : Prop :=
  descriptorStart s D ≤ a ∧ a < descriptorStart s D + D.length.toNat

/-- The position in the datagram of the payload of descriptor `i` (R107, R208). -/
def payloadPos (descs : List Descriptor) (i : Nat) : Nat :=
  14 + 6 * descs.length + totalLength (descs.take i)

/-- Every byte of the transmit frame has been written (R295). -/
def frameWritten (s : State) : Prop := ∀ a, a < fbBytes s → (memGet s.txfb a).isSome = true

/-- `ERR_INFO = INFO * 65536 + SUB * 256 + CODE` (R42, R252). -/
def errInfoOf (info sub code : Nat) : Word := BitVec.ofNat 32 (info * 65536 + sub * 256 + code)

/-- The 20-byte header of an emitted packet (30_encoding R108): `last` is the marker, then the sequence
number, the timestamp, the SSRC, the row's byte count and the scanline. -/
def emittedHeader (pkt : List Byte) (last : Bool) (seq : Half) (ts ssrc : Word) (rowBytes line : Nat) :
    Prop :=
  (rd32 pkt 0).toNat = (if last then 0x80E00000 else 0x80600000) + seq.toNat
    ∧ rd32 pkt 4 = ts ∧ rd32 pkt 8 = ssrc ∧ (rd16 pkt 12).toNat = 0
    ∧ (rd16 pkt 14).toNat = rowBytes ∧ (rd16 pkt 16).toNat = line ∧ (rd16 pkt 18).toNat = 0

/-- The payload of an emitted packet (R175, R176): `20 + stride` bytes in all, and every byte of scanline
`line` that something has written stands at its place. A byte nothing has written is free (93 U1). -/
def emittedRow (s : State) (pkt : List Byte) (line : Nat) : Prop :=
  pkt.length = 20 + 2 * s.width.toNat
    ∧ ∀ j b, j < 2 * s.width.toNat → memGet s.txfb (line * (2 * s.width.toNat) + j) = some b →
        pkt[20 + j]? = some b

/-- What the accepted packets of a run are, for a pass that begins in `s` (R181): the TXLINE step that comes
after `k` others hands over packet `k`, of scanline `k`, with the row as `TXFB` holds it at that step. -/
def passSends (s : State) (es : List Event) (pkts : List (List Byte)) : Prop :=
  ∀ a b, es = a ++ Script.stepTx .ok :: b →
    let k := a.count (Script.stepTx .ok)
    ∃ (u v : State) (p : List Byte), runAll a s = .next u ∧ runAll (a ++ [Script.stepTx .ok]) s = .next v
      ∧ v.out = u.out ++ [.sent p .ok] ∧ pkts[k]? = some p
      ∧ emittedHeader p (k + 1 == s.height.toNat) (s.seq + BitVec.ofNat 16 k) s.ts s.ssrc
          (2 * s.width.toNat) k
      ∧ emittedRow u p k

/-- What the offered packets of a run do, for a cycle that begins in `r` (R217): the RXPKT step that comes
after `k` others is accepted, raises nothing and writes the payload of its packet to scanline `k`. -/
def cycleTakes (r : State) (es : List Event) (rowBytes : Nat) : Prop :=
  ∀ a e b p, es = a ++ e :: b → offeredBy e = some p →
    let k := (a.filterMap offeredBy).length
    ∃ u v : State, runAll a r = .next u ∧ runAll (a ++ [e]) r = .next v
      ∧ v.rxPktCnt = u.rxPktCnt + 1 ∧ v.rxDropCnt = u.rxDropCnt
      ∧ (∀ j, j < rowBytes → memGet v.rxfb (k * rowBytes + j) = p[20 + j]?)
      ∧ (k ≠ 0 ∨ u.seqValid = false ∨ (rd32 p 0).extractLsb' 0 16 = u.rxSeqExpect →
          v.errStatus = u.errStatus ∧ v.rxGapCnt = u.rxGapCnt)

/-- The bytes an accepted datagram leaves in `RXFB` (R208, 20_memory R84): each payload byte at its
destination unless a later descriptor covers it, and every other byte as it was. -/
def scattered (s : State) (d : List Byte) (descs : List Descriptor) (m : Memory) : Prop :=
  (∀ i D j, descs[i]? = some D → j < D.length.toNat →
      (∀ k E, i < k → descs[k]? = some E → ¬ covers s E (descriptorStart s D + j)) →
        memGet m (descriptorStart s D + j) = d[payloadPos descs i + j]?)
    ∧ ∀ a, (∀ D ∈ descs, ¬ covers s D a) → memGet m a = memGet s.rxfb a

end Sys2Proof.Machine
end

