-- ==== Sys2Proof/Certificates/Slice0/Obligations.lean ====
section
/-! DEFINITION. The statements for the provers. Each docstring names the rule of spec/ it formalises, or
says what of it is the model's own. -/

open Sys2Proof Sys2Proof.Machine

/-! ## Encoding -/

/-- Every well-formed step is read back from its frame. Derived: the frame is the model's (log 2), the
operand patterns are those of R104, R108, R109, R120. -/
def Obligations.DecodeOfEncodeIsTheStep : Prop :=
  ∀ (cfg : Config) (i : Instr), wellFormed cfg i = true → decode (encode i) = .instr i

/-- Words written out from R104, R108 and R120 decode to the steps they stand for. Derived: which row a word
that fits several is given to is the model's choice, as is the answer OK of an emitted word: 0x8060FFFF is
read as `PKT.LINE` and not as `RXPKT.V1`, and a 48-bit word as a descriptor row and not as `PACKD` or `UNPKD`
(log 3); so is that the field `s` of the `ENCH` pattern is not read (log 2). -/
def Obligations.WrittenOutWordsDecode : Prop :=
  decodeTableWord 8 0x00 = some .nop ∧ decodeTableWord 8 0x01 = some .txframe
  ∧ decodeTableWord 8 0x02 = some .rxframe ∧ decodeTableWord 8 0x03 = some .rxrel
  ∧ decodeTableWord 8 0x04 = some .softrst ∧ decodeTableWord 8 0xFF = some (.cmdReserved 0xFF)
  ∧ decodeTableWord 48 0x00080001_0000 = some (.descLast 8 1 0)
  ∧ decodeTableWord 48 0x00040002_8002 = some (.descMore 4 2 2)
  ∧ decodeTableWord 32 0x8060FFFF = some (.pktLine 0xFFFF .ok)
  ∧ decodeTableWord 32 0x80E00007 = some (.pktLast 7 .ok)
  ∧ decodeTableWord 160 0x80E0FFFF_00015F90_DEADBEEF_0000_03C0_01DF_0000
      = some (.ench 479 1 0x00015F90 0xDEADBEEF 960)

/-- Whatever the decoder answers is well-formed but for the length of a datagram. Derived (R11, R109,
R120; the frame is the model's, log 2). -/
def Obligations.DecodedStepsAreWellFormed : Prop :=
  ∀ (cfg : Config) (b : List Byte) (i : Instr), decode b = .instr i →
    (wellFormed cfg i = true ↔
      ∀ d, i = .dech d ∨ i = .rxpktV1 d ∨ i = .rxpktV0 d → d.length ≤ cfg.maxDatagram)

/-! ## The header codec -/

/-- R141: the descriptor format has no unused bit and no illegal pattern. -/
def Obligations.DescriptorPackUnpackRoundTrip : Prop :=
  (∀ (length line : Half) (c : BitVec 1) (offset : BitVec 15),
      unpackDesc (packDesc ⟨length, line, c, offset⟩) 0 = ⟨length, line, c, offset⟩)
  ∧ ∀ b0 b1 b2 b3 b4 b5 : Byte,
      packDesc (unpackDesc [b0, b1, b2, b3, b4, b5] 0) = [b0, b1, b2, b3, b4, b5]

/-- R140: `PACKD` answers `be16(LENGTH) ++ be16(LINE) ++ be16(C * 32768 + OFFSET)` and changes nothing. -/
def Obligations.PackdAnswersTheDescriptorBytes : Prop :=
  ∀ (length line : Half) (c : BitVec 1) (offset : BitVec 15) (s : State),
    exec (.packd length line c offset) s = .next { s with out := s.out ++ [.bytes
      [BitVec.ofNat 8 (length.toNat / 256), BitVec.ofNat 8 (length.toNat % 256),
       BitVec.ofNat 8 (line.toNat / 256), BitVec.ofNat 8 (line.toNat % 256),
       BitVec.ofNat 8 ((c.toNat * 32768 + offset.toNat) / 256),
       BitVec.ofNat 8 ((c.toNat * 32768 + offset.toNat) % 256)]] }

/-- R142: `UNPKD` answers the fields of the six bytes and changes nothing. -/
def Obligations.UnpkdAnswersTheDescriptorFields : Prop :=
  ∀ (b0 b1 b2 b3 b4 b5 : Byte) (s : State), ∃ D : Descriptor,
    exec (.unpkd b0 b1 b2 b3 b4 b5) s = .next { s with out := s.out ++ [.desc D] }
    ∧ D.length.toNat = b0.toNat * 256 + b1.toNat
    ∧ D.line.toNat = b2.toNat * 256 + b3.toNat
    ∧ D.c.toNat = (b4.toNat * 256 + b5.toNat) / 32768
    ∧ D.offset.toNat = (b4.toNat * 256 + b5.toNat) % 32768

/-- The two descriptor rows: a descriptor with `C = 0` ends the chain, one with `C = 1` is followed by
one more. Derived from R150; that a turn is driven alone is the model's choice (log 14). -/
def Obligations.DescriptorRowsEndOrContinueTheChain : Prop :=
  ∀ (length line : Half) (offset : BitVec 15) (s : State),
    exec (.descLast length line offset) s
      = .next { s with out := s.out ++ [.chainLink ⟨length, line, 0, offset⟩ false] }
    ∧ exec (.descMore length line offset) s
      = .next { s with out := s.out ++ [.chainLink ⟨length, line, 1, offset⟩ true] }

/-- R144 to R148: the header `ENCH` answers, field by field, and its one side effect. -/
def Obligations.EnchBuildsTheHeaderAndAdvancesSeq : Prop :=
  ∀ (line : Half) (last : BitVec 1) (ts ssrc : Word) (rowBytes : Half) (s : State),
    ∃ h : List Byte,
      exec (.ench line last ts ssrc rowBytes) s
        = .next { s with
            seq := BitVec.ofNat 16 ((s.seq.toNat + 1) % 65536)
            out := s.out ++ [.bytes h] }
      ∧ h.length = 20 ∧ emittedHeader h (last == 1) s.seq ts ssrc rowBytes.toNat line.toNat

/-- R150: `DECH` answers the result of decoding and changes nothing. What the result is, the statements
about `dech` say. -/
def Obligations.DechAnswersItsResult : Prop :=
  ∀ (d : List Byte) (s : State),
    exec (.dech d) s = .next { s with out := s.out ++ [.decoded (dech s.cfg d)] }

/-- R151: a datagram is `SHORT` exactly when it has fewer than 20 bytes. -/
def Obligations.DechShortBelowTwentyBytes : Prop :=
  ∀ (cfg : Config) (d : List Byte),
    (d.length < 20 → dech cfg d = .malformed .short 0)
    ∧ (20 ≤ d.length → ∀ idx, dech cfg d ≠ .malformed .short idx)

/-- R102, R103: the header fields of a decoded datagram, from its bytes. -/
def Obligations.DechHeaderFields : Prop :=
  ∀ (cfg : Config) (d : List Byte) (hdr : Header) (descs : List Descriptor) (payoff : Nat),
    dech cfg d = .ok hdr descs payoff →
      let b := fun i => (d.getD i 0).toNat
      hdr.w0.toNat = b 0 * 16777216 + b 1 * 65536 + b 2 * 256 + b 3
      ∧ hdr.v.toNat = b 0 / 64 ∧ hdr.p.toNat = b 0 / 32 % 2 ∧ hdr.x.toNat = b 0 / 16 % 2
      ∧ hdr.cc.toNat = b 0 % 16 ∧ hdr.m.toNat = b 1 / 128 ∧ hdr.pt.toNat = b 1 % 128
      ∧ hdr.seq.toNat = b 2 * 256 + b 3
      ∧ hdr.ts.toNat = b 4 * 16777216 + b 5 * 65536 + b 6 * 256 + b 7
      ∧ hdr.ssrc.toNat = b 8 * 16777216 + b 9 * 65536 + b 10 * 256 + b 11
      ∧ hdr.extseq.toNat = b 12 * 256 + b 13

/-- R150: the descriptors of a decoded datagram are those at bytes `14 + 6 * i`, up to the first whose
continuation flag is clear. -/
def Obligations.DechReadsTheChainToItsEnd : Prop :=
  ∀ (cfg : Config) (d : List Byte) (hdr : Header) (descs : List Descriptor) (payoff : Nat),
    dech cfg d = .ok hdr descs payoff →
      payoff = 14 + 6 * descs.length ∧ 1 ≤ descs.length
      ∧ ∀ i D, descs[i]? = some D →
          D = unpackDesc d (14 + 6 * i) ∧ (D.c = 0 ↔ i + 1 = descs.length)

/-- R156: what `DECH` accepts lies inside the datagram, and the chain is bounded. -/
def Obligations.DechAcceptedStaysInsideTheDatagram : Prop :=
  ∀ (cfg : Config) (d : List Byte) (hdr : Header) (descs : List Descriptor) (payoff : Nat),
    dech cfg d = .ok hdr descs payoff →
      payoff + totalLength descs ≤ d.length ∧ descs.length ≤ cfg.maxDesc

/-- R152, R153, R270: which structural fault a datagram reports, and at which descriptor. -/
def Obligations.DechReportsTheFirstStructuralFault : Prop :=
  ∀ (cfg : Config) (d : List Byte) (sub : DropReason) (idx : Nat),
    dech cfg d = .malformed sub idx → 20 ≤ d.length →
      (sub = .tooMany ∧ idx = cfg.maxDesc ∧ 14 + 6 * idx ≤ d.length
        ∧ ∀ i, i < idx → (unpackDesc d (14 + 6 * i)).c = 1)
      ∨ (sub = .chain ∧ idx < cfg.maxDesc ∧ 14 + 6 * (idx + 1) > d.length ∧ 14 + 6 * idx ≤ d.length
        ∧ ∀ i, i < idx → (unpackDesc d (14 + 6 * i)).c = 1)
      ∨ (sub = .payload ∧ ∃ descs : List Descriptor, idx < descs.length ∧ descs.length ≤ cfg.maxDesc
        ∧ (∀ i D, descs[i]? = some D →
            D = unpackDesc d (14 + 6 * i) ∧ (D.c = 0 ↔ i + 1 = descs.length))
        ∧ 14 + 6 * descs.length + totalLength (descs.take (idx + 1)) > d.length
        ∧ 14 + 6 * descs.length + totalLength (descs.take idx) ≤ d.length)

/-- R152: with the default `MAX_DESC` the count cap drops no datagram that the length cap alone would
accept. -/
def Obligations.DefaultCountCapIsNeverTheTighter : Prop :=
  ∀ (cfg : Config) (d : List Byte) (idx : Nat),
    cfg.wf = true → cfg.maxDesc = (cfg.maxDatagram - 14) / 6 → d.length ≤ cfg.maxDatagram →
      dech cfg d = .malformed .tooMany idx → 14 + 6 * (idx + 1) > d.length

/-- R155: bytes after the last payload are never read. -/
def Obligations.DechIgnoresTrailingBytes : Prop :=
  ∀ (cfg : Config) (d rest : List Byte) (hdr : Header) (descs : List Descriptor) (payoff : Nat),
    dech cfg d = .ok hdr descs payoff →
      dech cfg (d.take (payoff + totalLength descs) ++ rest) = .ok hdr descs payoff

/-- R157: decoding what the encoder built, with any payload of at least `stride` bytes. -/
def Obligations.DechOfEnchRoundTrip : Prop :=
  ∀ (cfg : Config) (line : Half) (last : BitVec 1) (ts ssrc : Word) (rowBytes : Half) (s : State)
    (p : List Byte), 1 ≤ cfg.maxDesc → rowBytes.toNat ≤ p.length →
    ∃ h t, exec (.ench line last ts ssrc rowBytes) s = .next t ∧ t.out = s.out ++ [.bytes h]
      ∧ ∃ w0, dech cfg (h ++ p) = .ok
          { w0 := w0, v := 2, p := 0, x := 0, cc := 0, m := last, pt := 96, seq := s.seq, ts := ts,
            ssrc := ssrc, extseq := 0 }
          [⟨rowBytes, line, 0, 0⟩] 20

/-- R158: the source's literal decodes to `CC = 2` and a clear marker. -/
def Obligations.SourceLiteralHasClearMarker : Prop :=
  ∀ (cfg : Config) (d : List Byte) (seq : Half) (hdr : Header) (descs : List Descriptor) (payoff : Nat),
    (rd32 d 0).toNat = 0x82600000 + seq.toNat → dech cfg d = .ok hdr descs payoff →
      hdr.v = 2 ∧ hdr.p = 0 ∧ hdr.x = 0 ∧ hdr.cc = 2 ∧ hdr.m = 0 ∧ hdr.pt = 96 ∧ hdr.seq = seq

/-! ## The fragmenter -/

/-- R170: an accepted `TXFRAME`, and the refusals of R171 and R172 in the order of R270. -/
def Obligations.TxframeStartsAPassOrIsRefused : Prop :=
  ∀ s : State,
    (s.txBusy = true →
      exec .txframe s = .next { s with
        errStatus := s.errStatus ||| 0x40, errInfo := errInfoOf 1 0 6 })
    ∧ (s.txBusy = false → s.width = 0 ∨ s.height = 0 →
      exec .txframe s = .next { s with
        errStatus := s.errStatus ||| 0x20, errInfo := errInfoOf 1 1 5 })
    ∧ (s.txBusy = false → s.width ≠ 0 → s.height ≠ 0 →
        20 + 2 * s.width.toNat > s.cfg.maxDatagram →
      exec .txframe s = .next { s with
        errStatus := s.errStatus ||| 0x20, errInfo := errInfoOf 1 2 5 })
    ∧ (s.txBusy = false → s.width ≠ 0 → s.height ≠ 0 →
        20 + 2 * s.width.toNat ≤ s.cfg.maxDatagram →
      exec .txframe s = .next { s with txBusy := true, txResult := .none, txLine := 0 })

/-- R174 to R179: one `TXLINE` step, for both answers of the sink, on the last scanline and on any
other. The count of free draws is the model's own field (log 5). -/
def Obligations.TxlineSendsOneScanline : Prop :=
  ∀ s : State, s.txBusy = true → ∃ (pkt : List Byte) (k : Nat),
    emittedHeader pkt (s.txLine.toNat + 1 == s.height.toNat) s.seq s.ts s.ssrc (2 * s.width.toNat)
      s.txLine.toNat
    ∧ emittedRow s pkt s.txLine.toNat
    ∧ exec (.txline .fail) s = .next { s with
        seq := s.seq + 1, draws := k, out := s.out ++ [.sent pkt .fail]
        txResult := .sendFailure, txBusy := false, ts := s.ts + s.tsTick
        irqStatus := s.irqStatus ||| 1, errStatus := s.errStatus ||| 4
        errInfo := errInfoOf s.txLine.toNat 0 2 }
    ∧ (s.txLine.toNat + 1 ≠ s.height.toNat →
      exec (.txline .ok) s = .next { s with
        seq := s.seq + 1, draws := k, out := s.out ++ [.sent pkt .ok], txLine := s.txLine + 1 })
    ∧ (s.txLine.toNat + 1 = s.height.toNat →
      exec (.txline .ok) s = .next { s with
        seq := s.seq + 1, draws := k, out := s.out ++ [.sent pkt .ok], txLine := s.txLine + 1
        txResult := .ok, txBusy := false, ts := s.ts + s.tsTick
        irqStatus := s.irqStatus ||| 1 })

/-- The two emitted-word rows are the `TXLINE` step whose packet begins with that word. Derived from R108
and R174; reading the rows so is the model's choice (log 13). -/
def Obligations.EmittedWordRowsAreTxlineSteps : Prop :=
  ∀ (s : State) (answer : SinkAnswer), s.txBusy = true →
    (s.txLine.toNat + 1 ≠ s.height.toNat → ∃ t pkt,
      exec (.pktLine s.seq answer) s = .next t ∧ exec (.txline answer) s = .next t
      ∧ t.out = s.out ++ [.sent pkt answer] ∧ (rd32 pkt 0).toNat = 0x80600000 + s.seq.toNat)
    ∧ (s.txLine.toNat + 1 = s.height.toNat → ∃ t pkt,
      exec (.pktLast s.seq answer) s = .next t ∧ exec (.txline answer) s = .next t
      ∧ t.out = s.out ++ [.sent pkt answer] ∧ (rd32 pkt 0).toNat = 0x80E00000 + s.seq.toNat)

/-- R181: a pass in which the sink answers `OK` every time, with any steps of other agents between its
`TXLINE` steps. -/
def Obligations.PassSendsEveryScanlineInOrder : Prop :=
  ∀ (s : State) (es : List Event), s.txBusy = true → s.txLine = 0 → s.height ≠ 0 →
    (∀ e ∈ es, e = Script.stepTx .ok ∨ besidePass s.cfg e = true) →
    es.count (Script.stepTx .ok) + 1 = s.height.toNat →
    ∃ (t : State) (pkts : List (List Byte)),
      runAll (es ++ [Script.stepTx .ok]) s = .next t
      ∧ sentPackets t = sentPackets s ++ pkts.map (fun p => (p, .ok))
      ∧ pkts.length = s.height.toNat
      ∧ passSends s (es ++ [Script.stepTx .ok]) pkts
      ∧ t.seq = s.seq + s.height ∧ t.ts = s.ts + s.tsTick ∧ t.txLine = s.height
      ∧ t.txResult = .ok ∧ t.txBusy = false

/-- R178: a pass that fails at scanline `n` has used up `n + 1` sequence numbers and sent `n` packets, with
any steps of other agents between its `TXLINE` steps. -/
def Obligations.FailedPassUsesUpItsSequenceNumbers : Prop :=
  ∀ (s : State) (es : List Event) (n : Nat), s.txBusy = true → s.txLine = 0 → n < s.height.toNat →
    (∀ e ∈ es, e = Script.stepTx .ok ∨ besidePass s.cfg e = true) →
    es.count (Script.stepTx .ok) = n →
    ∃ (t : State) (pkts : List (List Byte)) (refusedPkt : List Byte),
      runAll (es ++ [Script.stepTx .fail]) s = .next t
      ∧ sentPackets t = sentPackets s ++ pkts.map (fun p => (p, .ok)) ++ [(refusedPkt, .fail)]
      ∧ pkts.length = n ∧ passSends s es pkts
      ∧ (∀ p ∈ pkts, (rd32 p 0).getLsbD 23 = false)
      ∧ t.seq = s.seq + BitVec.ofNat 16 (n + 1) ∧ t.ts = s.ts + s.tsTick ∧ t.txLine.toNat = n
      ∧ t.txResult = .sendFailure ∧ t.txBusy = false ∧ t.errInfo = errInfoOf n 0 2

/-! ## The reassembler -/

/-- R190, R191: an accepted `RXFRAME` and its refusals, in the order of R270. -/
def Obligations.RxframeStartsACycleOrIsRefused : Prop :=
  ∀ s : State,
    (s.rxState ≠ .idle →
      exec .rxframe s = .next { s with
        errStatus := s.errStatus ||| 0x40, errInfo := errInfoOf 2 0 6 })
    ∧ (s.rxState = .idle → s.width = 0 ∨ s.height = 0 →
      exec .rxframe s = .next { s with
        errStatus := s.errStatus ||| 0x20, errInfo := errInfoOf 2 1 5 })
    ∧ (s.rxState = .idle → s.width ≠ 0 → s.height ≠ 0 →
      exec .rxframe s = .next { s with
        rxState := .receiving, rxResult := .none, lastDrop := none
        rxPktCnt := 0, rxByteCnt := 0, rxDropCnt := 0 })

/-- R197: a datagram that `DECH` finds malformed is dropped. `INFO` is said for datagrams of at most 65535
bytes, which have no longer index. -/
def Obligations.RxpktDropsMalformedDatagrams : Prop :=
  ∀ (s : State) (d : List Byte) (i : Instr) (sub : DropReason) (idx : Nat),
    s.rxState = .receiving → offers d i = true → dech s.cfg d = .malformed sub idx →
      ∃ (code : Nat) (info : Half),
        (sub, code) ∈ [(DropReason.short, 1), (.tooMany, 2), (.chain, 3), (.payload, 4)]
        ∧ (d.length ≤ 65535 → info.toNat = idx)
        ∧ exec i s = .next { s with
            rxDropCnt := s.rxDropCnt + 1, lastDrop := some sub
            errStatus := s.errStatus ||| 0x2
            errInfo := errInfoOf info.toNat code 1 }

/-- R199: with validation on, a datagram of another version or type is dropped as `NONMATCH`; no other datagram
that decodes is dropped for that reason, whatever its other header fields hold, and none of them that fits
the geometry is dropped. -/
def Obligations.RxpktDropsNonMatchingDatagrams : Prop :=
  ∀ (s : State) (d : List Byte) (i : Instr) (hdr : Header) (descs : List Descriptor) (payoff : Nat),
    s.rxState = .receiving → offers d i = true → dech s.cfg d = .ok hdr descs payoff →
      (s.ctrl.getLsbD 0 = true → hdr.v ≠ 2 ∨ hdr.pt ≠ 96 →
        exec i s = .next { s with
          rxDropCnt := s.rxDropCnt + 1, lastDrop := some .nonmatch
          errStatus := s.errStatus ||| 0x200
          errInfo := errInfoOf (hdr.w0.toNat / 65536) 0 9 })
      ∧ (s.ctrl.getLsbD 0 = false ∨ (hdr.v = 2 ∧ hdr.pt = 96) →
        ∃ t, exec i s = .next t ∧ t.errStatus.getLsbD 9 = s.errStatus.getLsbD 9
          ∧ (t.lastDrop = some .nonmatch → s.lastDrop = some .nonmatch)
          ∧ ((∀ D ∈ descs, descriptorFits s D) → t.rxDropCnt = s.rxDropCnt ∧ t.lastDrop = s.lastDrop))

/-- R201, R202, R198: the first descriptor outside the geometry drops the whole datagram, `LINE` before
`SPAN`. `INFO` is said for datagrams of at most 65535 bytes, which have no longer index. -/
def Obligations.RxpktDropsDatagramsOutsideTheGeometry : Prop :=
  ∀ (s : State) (d : List Byte) (i : Instr) (hdr : Header) (descs : List Descriptor) (payoff n : Nat)
    (D : Descriptor),
    s.rxState = .receiving → offers d i = true → dech s.cfg d = .ok hdr descs payoff →
      ¬ rejectedByValidation s hdr → descs[n]? = some D →
      (∀ k E, k < n → descs[k]? = some E → descriptorFits s E) →
      ∃ info : Half, (d.length ≤ 65535 → info.toNat = n)
        ∧ (D.line.toNat ≥ s.height.toNat →
          exec i s = .next { s with
            rxDropCnt := s.rxDropCnt + 1, lastDrop := some .line
            errStatus := s.errStatus ||| 0x2, errInfo := errInfoOf info.toNat 5 1 })
        ∧ (D.line.toNat < s.height.toNat → D.offset.toNat * 2 + D.length.toNat > 2 * s.width.toNat →
          exec i s = .next { s with
            rxDropCnt := s.rxDropCnt + 1, lastDrop := some .span
            errStatus := s.errStatus ||| 0x2, errInfo := errInfoOf info.toNat 6 1 })

/-- R203, R206 to R211: an accepted datagram, whole. `RXH_NDESC` and `RXH_PAYOFF` are said for datagrams of at
most 65535 bytes, whose count and offset fit them. -/
def Obligations.RxpktAcceptsAndScattersADatagram : Prop :=
  ∀ (s : State) (d : List Byte) (i : Instr) (hdr : Header) (descs : List Descriptor),
    s.rxState = .receiving → offers d i = true → acceptedAs s d hdr descs →
      let gap := s.ctrl.getLsbD 1 = true ∧ s.seqValid = true ∧ hdr.seq ≠ s.rxSeqExpect
      ∃ (m : Memory) (ndesc payoff : Half), scattered s d descs m
        ∧ (d.length ≤ 65535 → ndesc.toNat = descs.length ∧ payoff.toNat = 14 + 6 * descs.length) ∧
        exec i s = .next { s with
          rxGapCnt := if gap then s.rxGapCnt + 1 else s.rxGapCnt
          errStatus := if gap then s.errStatus ||| 0x400 else s.errStatus
          errInfo := if gap then errInfoOf hdr.seq.toNat 0 10 else s.errInfo
          rxSeqExpect := hdr.seq + 1, seqValid := true
          rxhW0 := hdr.w0, rxhTs := hdr.ts, rxhSsrc := hdr.ssrc, rxhExtseq := hdr.extseq
          rxhNdesc := ndesc, rxhPayoff := payoff
          rxfb := m
          rxPktCnt := s.rxPktCnt + 1
          rxByteCnt := s.rxByteCnt + BitVec.ofNat 32 (totalLength descs)
          rxState := if hdr.m = 1 then .complete else .receiving
          rxResult := if hdr.m = 1 then .complete else s.rxResult
          irqStatus := if hdr.m = 1 then s.irqStatus ||| 2 else s.irqStatus }

/-- R75: whatever datagram is offered, in whatever state, no byte outside `0` to `FB_BYTES - 1` of `RXFB`
changes. -/
def Obligations.RxpktNeverWritesOutsideTheFrame : Prop :=
  ∀ (s t : State) (d : List Byte) (i : Instr) (a : Nat),
    offers d i = true → exec i s = .next t → fbBytes s ≤ a → memGet t.rxfb a = memGet s.rxfb a

/-- R203, R204: a dropped datagram writes nothing, latches nothing and does not complete the cycle. -/
def Obligations.DroppedDatagramsLeaveTheFrameAlone : Prop :=
  ∀ (s t : State) (d : List Byte) (i : Instr),
    offers d i = true → exec i s = .next t → t.rxDropCnt ≠ s.rxDropCnt →
      t.rxfb = s.rxfb ∧ t.rxState = s.rxState ∧ t.rxPktCnt = s.rxPktCnt ∧ t.rxByteCnt = s.rxByteCnt
      ∧ t.rxSeqExpect = s.rxSeqExpect ∧ t.seqValid = s.seqValid ∧ t.rxhW0 = s.rxhW0
      ∧ t.rxhTs = s.rxhTs ∧ t.rxhSsrc = s.rxhSsrc ∧ t.rxhExtseq = s.rxhExtseq
      ∧ t.rxhNdesc = s.rxhNdesc ∧ t.rxhPayoff = s.rxhPayoff ∧ t.irqStatus = s.irqStatus

/-- 20_memory R81: a duplicate of an accepted datagram writes the same bytes to the same offsets. -/
def Obligations.DuplicateDatagramWritesTheSameBytes : Prop :=
  ∀ (s t u : State) (d : List Byte) (i : Instr),
    offers d i = true → exec i s = .next t → t.rxState = .receiving → exec i t = .next u →
      ∀ a, memGet u.rxfb a = memGet t.rxfb a

/-- R212: `RXTMO` ends the cycle. -/
def Obligations.RxtmoEndsTheCycle : Prop :=
  ∀ s : State, s.rxState = .receiving → s.rxTimeout ≠ 0 →
    exec .rxtmo s = .next { s with
      rxState := .idle, rxResult := .timeout, irqStatus := s.irqStatus ||| 2
      errStatus := s.errStatus ||| 8
      errInfo := errInfoOf (s.rxPktCnt.toNat % 65536) 0 3 }

/-- R215: `RXREL` releases a completed frame and is refused in any other state. -/
def Obligations.RxrelReleasesACompletedFrame : Prop :=
  ∀ s : State,
    (s.rxState = .complete → exec .rxrel s = .next { s with rxState := .idle })
    ∧ (s.rxState ≠ .complete →
      exec .rxrel s = .next { s with
        errStatus := s.errStatus ||| 0x80, errInfo := errInfoOf 3 2 7 })

/-- R173, R194, R212: an engine with no enabled step changes nothing. Derived: that a step the agenda
names while it is not enabled leaves the state alone is the model's reading (log 6), and so is that an
emitted-word row whose word does not come next is no step (log 13). -/
def Obligations.EnginesWithoutAnEnabledStepWait : Prop :=
  ∀ (s : State) (answer : SinkAnswer) (seq : Half) (d : List Byte) (i : Instr),
    (s.txBusy = false → exec (.txline answer) s = .next s)
    ∧ (s.txBusy = false ∨ s.txLine.toNat + 1 = s.height.toNat ∨ seq ≠ s.seq →
      exec (.pktLine seq answer) s = .next s)
    ∧ (s.txBusy = false ∨ s.txLine.toNat + 1 ≠ s.height.toNat ∨ seq ≠ s.seq →
      exec (.pktLast seq answer) s = .next s)
    ∧ (s.rxState ≠ .receiving → offers d i = true → exec i s = .next s)
    ∧ (s.rxState ≠ .receiving ∨ s.rxTimeout = 0 → exec .rxtmo s = .next s)

/-- R216: every transition of `RX_STATUS.STATE`, over every step of the table. -/
def Obligations.ReceiveStateTransitions : Prop :=
  ∀ (i : Instr) (s t : State), exec i s = .next t →
    t.rxState = s.rxState
    ∨ (s.rxState = .idle ∧ t.rxState = .receiving ∧ carriesCommand 2 i = true
        ∧ s.width ≠ 0 ∧ s.height ≠ 0)
    ∨ (s.rxState = .receiving ∧ t.rxState = .complete ∧ ∃ d hdr descs,
        offers d i = true ∧ acceptedAs s d hdr descs ∧ hdr.m = 1)
    ∨ (s.rxState = .receiving ∧ t.rxState = .idle ∧ i = .rxtmo ∧ s.rxTimeout ≠ 0)
    ∨ (s.rxState = .complete ∧ t.rxState = .idle ∧ carriesCommand 3 i = true)
    ∨ (t.rxState = .idle ∧ carriesCommand 4 i = true)

/-- R217: the packets of a pass, offered in emission order to a receiver of the same geometry, rebuild
the frame byte for byte, with any steps of other agents between the steps of either engine. What the pass read
is the rows of its packets: a byte of `TXFB` that nothing has written is free there (log 5), and arrives as it
was sent. -/
def Obligations.FrameRoundTrip : Prop :=
  ∀ (s : State) (es : List Event),
    s.txBusy = false → s.width ≠ 0 → s.height ≠ 0 → 20 + 2 * s.width.toNat ≤ s.cfg.maxDatagram →
    (∀ e ∈ es, e = Script.stepTx .ok ∨ besidePass s.cfg e = true) →
    es.count (Script.stepTx .ok) + 1 = s.height.toNat →
    ∃ (s₀ s' : State) (pkts : List (List Byte)),
      runAll [Script.cmd 1] s = .next s₀
      ∧ runAll (es ++ [Script.stepTx .ok]) s₀ = .next s'
      ∧ sentPackets s' = sentPackets s ++ pkts.map (fun p => (p, .ok))
      ∧ pkts.length = s.height.toNat ∧ passSends s₀ (es ++ [Script.stepTx .ok]) pkts
      ∧ ∀ (r : State) (fs : List Event) (p : List Byte),
        r.rxState = .idle → r.width = s.width → r.height = s.height →
        1 ≤ r.cfg.maxDesc → 20 + 2 * s.width.toNat ≤ r.cfg.maxDatagram →
        (∀ e ∈ fs, (offeredBy e).isSome = true ∨ besideCycle r.cfg e = true) →
        fs.filterMap offeredBy ++ [p] = pkts →
        ∃ r₀ r' : State,
          runAll [Script.cmd 2] r = .next r₀
          ∧ r₀.seqValid = r.seqValid ∧ r₀.rxSeqExpect = r.rxSeqExpect
          ∧ runAll (fs ++ [Script.stepRx p]) r₀ = .next r'
          ∧ r'.rxState = .complete ∧ r'.rxResult = .complete
          ∧ (∀ k q j, pkts[k]? = some q → j < 2 * s.width.toNat →
              memGet r'.rxfb (k * (2 * s.width.toNat) + j) = q[20 + j]? ∧ (q[20 + j]?).isSome = true)
          ∧ ((∀ e ∈ es, writesBuffer .txfb e = false) →
              ∀ a b, a < fbBytes s → memGet s.txfb a = some b → memGet r'.rxfb a = some b)
          ∧ r'.rxPktCnt.toNat = s.height.toNat ∧ r'.rxByteCnt.toNat = fbBytes s ∧ r'.rxDropCnt = 0
          ∧ cycleTakes r₀ (fs ++ [Script.stepRx p]) (2 * s.width.toNat)
          ∧ r₀.errStatus = r.errStatus
          ∧ (r.seqValid = false ∨ r.rxSeqExpect = s.seq → r'.rxGapCnt = r.rxGapCnt)

/-! ## The host interface -/

/-- R230, R40, with the fields of R35 and R37: the value each offset reads as, and no side effect. -/
def Obligations.RegrdReturnsTheRegister : Prop :=
  ∀ s : State,
    let txResult := match s.txResult with | .none => 0 | .ok => 1 | .sendFailure => 2
    let rxState := match s.rxState with | .idle => 0 | .receiving => 1 | .complete => 2
    let rxResult := match s.rxResult with | .none => 0 | .complete => 1 | .timeout => 2
    let lastDrop := match s.lastDrop with
      | none => 0 | some .short => 1 | some .tooMany => 2 | some .chain => 3 | some .payload => 4
      | some .line => 5 | some .span => 6 | some .nonmatch => 7
    (∀ p ∈ ([(0x00, 0), (0x04, s.ctrl.toNat), (0x08, s.width.toNat), (0x0C, s.height.toNat),
        (0x10, s.ssrc.toNat), (0x14, s.ts.toNat), (0x18, s.tsTick.toNat), (0x1C, s.seq.toNat),
        (0x20, s.rxTimeout.toNat),
        (0x24, s.txBusy.toNat + 2 * txResult),
        (0x28, s.txLine.toNat),
        (0x2C, rxState + 4 * rxResult + 16 * s.seqValid.toNat + 256 * lastDrop),
        (0x30, s.rxPktCnt.toNat), (0x34, s.rxByteCnt.toNat), (0x38, s.rxDropCnt.toNat),
        (0x3C, s.rxGapCnt.toNat), (0x40, s.rxSeqExpect.toNat), (0x44, s.rxhW0.toNat),
        (0x48, s.rxhTs.toNat), (0x4C, s.rxhSsrc.toNat), (0x50, s.rxhExtseq.toNat),
        (0x54, s.rxhNdesc.toNat), (0x58, s.rxhPayoff.toNat), (0x5C, s.errStatus.toNat),
        (0x60, s.errInfo.toNat), (0x64, s.irqStatus.toNat), (0x68, s.irqEnable.toNat)]
          : List (Nat × Nat)),
      exec (.regrd (BitVec.ofNat 32 p.1)) s
        = .next { s with out := s.out ++ [.value (BitVec.ofNat 32 p.2)] })
    ∧ ∀ off : Word, off.toNat % 4 ≠ 0 ∨ off.toNat > 0x68 →
      exec (.regrd off) s = .next { s with out := s.out ++ [.value 0] }

/-- R232: the implemented bits of a write to a register that is not locked (R23). -/
def Obligations.RegwrStoresTheImplementedBits : Prop :=
  ∀ (s : State) (v : Word),
    (s.txBusy = false → s.rxState ≠ .receiving →
      exec (.regwr 0x08 v) s = .next { s with width := BitVec.ofNat 15 v.toNat }
      ∧ exec (.regwr 0x0C v) s = .next { s with height := BitVec.ofNat 16 v.toNat })
    ∧ (s.txBusy = false →
      exec (.regwr 0x10 v) s = .next { s with ssrc := v }
      ∧ exec (.regwr 0x14 v) s = .next { s with ts := v }
      ∧ exec (.regwr 0x18 v) s = .next { s with tsTick := v }
      ∧ exec (.regwr 0x1C v) s = .next { s with seq := BitVec.ofNat 16 v.toNat })
    ∧ (s.rxState ≠ .receiving →
      exec (.regwr 0x20 v) s = .next { s with rxTimeout := v }
      ∧ exec (.regwr 0x04 v) s = .next { s with ctrl := BitVec.ofNat 2 v.toNat })
    ∧ exec (.regwr 0x68 v) s = .next { s with irqEnable := BitVec.ofNat 2 v.toNat }

/-- R23: a write to a locked register is ignored and raises `LOCKED`. -/
def Obligations.RegwrToALockedRegisterIsIgnored : Prop :=
  ∀ (s : State) (v : Word) (off : Nat),
    (s.txBusy = true ∧ off ∈ [0x08, 0x0C, 0x10, 0x14, 0x18, 0x1C])
      ∨ (s.rxState = .receiving ∧ off ∈ [0x08, 0x0C, 0x20, 0x04]) →
    exec (.regwr (BitVec.ofNat 32 off) v) s = .next { s with
      errStatus := s.errStatus ||| 0x100, errInfo := errInfoOf off 0 8 }

/-- R233: a write to `ERR_STATUS` or `IRQ_STATUS` clears the bits that are 1 in `v`. -/
def Obligations.RegwrClearsTheWrittenOnes : Prop :=
  ∀ (s : State) (v : Word), ∃ (e : Word) (q : BitVec 2),
    exec (.regwr 0x5C v) s = .next { s with errStatus := e }
    ∧ exec (.regwr 0x64 v) s = .next { s with irqStatus := q }
    ∧ (∀ k, k < 32 → e.getLsbD k = (s.errStatus.getLsbD k && !v.getLsbD k))
    ∧ ∀ k, k < 2 → q.getLsbD k = (s.irqStatus.getLsbD k && !v.getLsbD k)

/-- R231: a write to a read-only register or to an unmapped offset does nothing. -/
def Obligations.RegwrElsewhereDoesNothing : Prop :=
  ∀ (s : State) (off v : Word),
    off.toNat % 4 ≠ 0 ∨ off.toNat > 0x68 ∨ (0x24 ≤ off.toNat ∧ off.toNat ≤ 0x58) ∨ off.toNat = 0x60 →
      exec (.regwr off v) s = .next s

/-- R234: a write to `CMD` runs the command of its low byte to its end. -/
def Obligations.WriteToCmdRunsTheCommand : Prop :=
  ∀ (s : State) (v : Word),
    let code := v.toNat % 256
    (code = 0 → exec (.regwr 0 v) s = exec .nop s)
    ∧ (code = 1 → exec (.regwr 0 v) s = exec .txframe s)
    ∧ (code = 2 → exec (.regwr 0 v) s = exec .rxframe s)
    ∧ (code = 3 → exec (.regwr 0 v) s = exec .rxrel s)
    ∧ (code = 4 → exec (.regwr 0 v) s = exec .softrst s)
    ∧ (5 ≤ code → exec (.regwr 0 v) s = .next { s with
        errStatus := s.errStatus ||| 0x80, errInfo := errInfoOf code 1 7 })

/-- R235: `NOP` has no effect. -/
def Obligations.NopHasNoEffect : Prop :=
  ∀ s : State, exec .nop s = .next s

/-- R236: `SOFTRST` gives every register its reset value and keeps the buffers. -/
def Obligations.SoftrstRestoresEveryRegister : Prop :=
  ∀ s : State, ∃ t, exec .softrst s = .next t
    ∧ (∀ r ∈ allRegs, regValue r t = 0) ∧ allRegs.length = 27
    ∧ t.txfb = s.txfb ∧ t.rxfb = s.rxfb ∧ t.cfg = s.cfg ∧ t.agenda = s.agenda ∧ t.out = s.out
    ∧ t.draws = s.draws

/-- R237: a reserved command code raises `BAD_CMD` with sub-code 1. -/
def Obligations.ReservedCommandRaisesBadCmd : Prop :=
  ∀ (s : State) (code : Byte),
    exec (.cmdReserved code) s = .next { s with
      errStatus := s.errStatus ||| 0x80, errInfo := errInfoOf code.toNat 1 7 }

/-! ## Exceptions, interrupts, whole-machine rules -/

/-- R252: `raise E(sub, info)` sets the bit of its code, writes `ERR_INFO`, and does nothing else. -/
def Obligations.RaiseRecordsTheException : Prop :=
  ∀ (e : Exc) (sub : BitVec 8) (info : Half) (s : State),
    raise e sub info s = { s with
      errStatus := s.errStatus ||| BitVec.ofNat 32 (2 ^ excCode e)
      errInfo := errInfoOf info.toNat sub.toNat (excCode e) }

/-- R43: the interrupt output is 1 exactly when a pending bit is enabled. -/
def Obligations.InterruptOutputIsPendingAndEnabled : Prop :=
  ∀ s : State, irqOutput s = true ↔
    (s.irqStatus.getLsbD 0 = true ∧ s.irqEnable.getLsbD 0 = true)
    ∨ (s.irqStatus.getLsbD 1 = true ∧ s.irqEnable.getLsbD 1 = true)

/-- R41: a sticky bit stays set until the host writes a 1 to it or `SOFTRST` runs. -/
def Obligations.StickyBitsAreClearedOnlyByTheHost : Prop :=
  ∀ (i : Instr) (s t : State) (k : Nat), exec i s = .next t → s.errStatus.getLsbD k = true →
    t.errStatus.getLsbD k = true ∨ carriesCommand 4 i = true
      ∨ ∃ v, i = .regwr 0x5C v ∧ v.getLsbD k = true

/-- R262: what sets and what clears the two completion bits. -/
def Obligations.CompletionBitsFollowTheEngines : Prop :=
  ∀ (i : Instr) (s t : State) (k : Nat), exec i s = .next t →
    (s.irqStatus.getLsbD k = true → t.irqStatus.getLsbD k = false →
      carriesCommand 4 i = true ∨ ∃ v, i = .regwr 0x64 v ∧ v.getLsbD k = true)
    ∧ (s.irqStatus.getLsbD k = false → t.irqStatus.getLsbD k = true →
      (k = 0 ∧ s.txBusy = true ∧ t.txBusy = false)
      ∨ (k = 1 ∧ s.rxState = .receiving ∧ t.rxState ≠ .receiving))

/-- R29: the steps that may change `SEQ`. -/
def Obligations.OnlyTheEncoderAndTheHostChangeSeq : Prop :=
  ∀ (i : Instr) (s t : State), exec i s = .next t → t.seq ≠ s.seq →
    (t.seq = s.seq + 1 ∧ ((∃ line last ts ssrc rowBytes, i = .ench line last ts ssrc rowBytes)
      ∨ (∃ a, i = .txline a) ∨ (∃ q a, i = .pktLine q a) ∨ (∃ q a, i = .pktLast q a)))
    ∨ (s.txBusy = false ∧ ∃ v, i = .regwr 0x1C v ∧ t.seq = BitVec.ofNat 16 v.toNat)
    ∨ (carriesCommand 4 i = true ∧ t.seq = 0)

/-- 20_memory R70, R74: no step of the table writes `TXFB`, and only an accepted datagram writes
`RXFB`. -/
def Obligations.StepsOfTheTableKeepTheBuffers : Prop :=
  ∀ (i : Instr) (s t : State), exec i s = .next t →
    t.txfb = s.txfb ∧ t.cfg = s.cfg ∧ t.agenda = s.agenda
    ∧ (t.rxfb = s.rxfb ∨ (s.rxState = .receiving ∧ ∃ d hdr descs,
        offers d i = true ∧ acceptedAs s d hdr descs))

/-- R305: the operand registers of a pass in flight are stable, but for `SOFTRST`. -/
def Obligations.PassOperandsAreStable : Prop :=
  ∀ (i : Instr) (s t : State), exec i s = .next t → s.txBusy = true → carriesCommand 4 i = false →
    t.width = s.width ∧ t.height = s.height ∧ t.ssrc = s.ssrc ∧ t.tsTick = s.tsTick
    ∧ (t.txBusy = true → t.ts = s.ts) ∧ (t.txBusy = false → t.ts = s.ts + s.tsTick)

/-- No step of the table stops the machine. Derived: R110 says that the worst outcome of any datagram is
that it is dropped, and a refused command is recorded and no more (R272). Neither speaks of a step that is not
enabled: R173, R194 and R212 say that there is no such step then. That `exec` answers a next state for one
(`TXLINE` with `BUSY = 0`, `RXPKT` outside Receiving, `RXTMO` where it is not enabled) is the model's reading
(log 6), and so it is for an emitted word that does not come next (log 13) and for the unit functions and the
descriptor rows as steps of their own (logs 14, 15). -/
def Obligations.EveryStepOfTheTableCompletes : Prop :=
  ∀ (i : Instr) (s : State), ∃ t, exec i s = .next t

/-! ## The step -/

/-- When the head of the agenda is a frame that decodes to a well-formed step, the machine runs that step
in the state whose agenda holds the rest. Derived: the agenda is the model's (log 1). -/
def Obligations.StepRunsTheDecodedStep : Prop :=
  ∀ (s : State) (b : List Byte) (rest : List Event) (i : Instr),
    s.agenda = .frame b :: rest → decode b = .instr i → wellFormed s.cfg i = true →
      step s = exec i { s with agenda := rest }

/-- R70, R238: the host's accesses to the buffers inside the buffer of the largest geometry (log 11), as
events of the agenda (log 1). Derived. -/
def Obligations.HostReachesTheBuffers : Prop :=
  ∀ (s : State) (rest : List Event) (sp : Space) (a n : Nat) (bytes : List Byte),
    (s.agenda = .bufferWrite sp a bytes :: rest → a + bytes.length ≤ 32767 * 65535 * 2 →
      ∃ m, step s = .next (setBuffer sp m { s with agenda := rest })
        ∧ ∀ x, memGet m x = if a ≤ x ∧ x < a + bytes.length then bytes[x - a]?
            else memGet (buffer sp s) x)
    ∧ (s.agenda = .bufferRead sp a n :: rest → a + n ≤ 32767 * 65535 * 2 →
      ∃ (r : List Byte) (k : Nat),
        step s = .next { s with agenda := rest, out := s.out ++ [.bufferBytes r], draws := k }
        ∧ r.length = n
        ∧ ∀ j b, j < n → memGet (buffer sp s) (a + j) = some b → r[j]? = some b)

/-- R290: the reset input puts every register at 0. The buffers' contents after it are unspecified (R291),
which the model says by holding no byte (log 9). -/
def Obligations.ResetInputClearsEveryRegister : Prop :=
  ∀ (s : State) (rest : List Event), s.agenda = .hardReset :: rest →
    ∃ t, step s = .next t ∧ (∀ r ∈ allRegs, regValue r t = 0) ∧ t.txBusy = false
      ∧ t.rxState = .idle ∧ (∀ a, memGet t.txfb a = none ∧ memGet t.rxfb a = none)
      ∧ t.agenda = rest

/-- R47: after reset every register holds 0, and nothing is in flight. -/
def Obligations.ResetStateIsAllZero : Prop :=
  (∀ r ∈ allRegs, regValue r State.reset = 0) ∧ inFlight State.reset = false
  ∧ irqOutput State.reset = false ∧ ∀ a, memGet State.reset.txfb a = none ∧ memGet State.reset.rxfb a = none

/-- The invariant holds after reset. Its parameters are those of log 4, the model's choice. -/
def Obligations.InvariantHoldsAtReset : Prop := Inv State.reset

/-- From every state that meets the invariant, a step gives a state that meets it (R41, R173, R274 among its
parts). Two of its parts rest on the model's choice: `txInside` and `rxInside` on log 11 (a host access beyond
the largest geometry faults), and `latched`, for counts above 65535, on log 10. -/
def Obligations.EveryStepKeepsTheInvariant : Prop :=
  ∀ s t : State, Inv s → step s = .next t → Inv t
end

