-- ==== Sys2Proof/Laws/State.lean ====
section
/-! SUPPORT. One lemma for each field of the state and each named update: what the field is after it. -/

namespace Sys2Proof.Machine

section
variable (s : State)

/-! ## `handOut` -/

@[simp] theorem handOut_ctrl (o : Output) : (handOut o s).ctrl = s.ctrl := rfl
@[simp] theorem handOut_width (o : Output) : (handOut o s).width = s.width := rfl
@[simp] theorem handOut_height (o : Output) : (handOut o s).height = s.height := rfl
@[simp] theorem handOut_ssrc (o : Output) : (handOut o s).ssrc = s.ssrc := rfl
@[simp] theorem handOut_ts (o : Output) : (handOut o s).ts = s.ts := rfl
@[simp] theorem handOut_tsTick (o : Output) : (handOut o s).tsTick = s.tsTick := rfl
@[simp] theorem handOut_seq (o : Output) : (handOut o s).seq = s.seq := rfl
@[simp] theorem handOut_rxTimeout (o : Output) : (handOut o s).rxTimeout = s.rxTimeout := rfl
@[simp] theorem handOut_txBusy (o : Output) : (handOut o s).txBusy = s.txBusy := rfl
@[simp] theorem handOut_txResult (o : Output) : (handOut o s).txResult = s.txResult := rfl
@[simp] theorem handOut_txLine (o : Output) : (handOut o s).txLine = s.txLine := rfl
@[simp] theorem handOut_rxState (o : Output) : (handOut o s).rxState = s.rxState := rfl
@[simp] theorem handOut_rxResult (o : Output) : (handOut o s).rxResult = s.rxResult := rfl
@[simp] theorem handOut_seqValid (o : Output) : (handOut o s).seqValid = s.seqValid := rfl
@[simp] theorem handOut_lastDrop (o : Output) : (handOut o s).lastDrop = s.lastDrop := rfl
@[simp] theorem handOut_rxPktCnt (o : Output) : (handOut o s).rxPktCnt = s.rxPktCnt := rfl
@[simp] theorem handOut_rxByteCnt (o : Output) : (handOut o s).rxByteCnt = s.rxByteCnt := rfl
@[simp] theorem handOut_rxDropCnt (o : Output) : (handOut o s).rxDropCnt = s.rxDropCnt := rfl
@[simp] theorem handOut_rxGapCnt (o : Output) : (handOut o s).rxGapCnt = s.rxGapCnt := rfl
@[simp] theorem handOut_rxSeqExpect (o : Output) : (handOut o s).rxSeqExpect = s.rxSeqExpect := rfl
@[simp] theorem handOut_rxhW0 (o : Output) : (handOut o s).rxhW0 = s.rxhW0 := rfl
@[simp] theorem handOut_rxhTs (o : Output) : (handOut o s).rxhTs = s.rxhTs := rfl
@[simp] theorem handOut_rxhSsrc (o : Output) : (handOut o s).rxhSsrc = s.rxhSsrc := rfl
@[simp] theorem handOut_rxhExtseq (o : Output) : (handOut o s).rxhExtseq = s.rxhExtseq := rfl
@[simp] theorem handOut_rxhNdesc (o : Output) : (handOut o s).rxhNdesc = s.rxhNdesc := rfl
@[simp] theorem handOut_rxhPayoff (o : Output) : (handOut o s).rxhPayoff = s.rxhPayoff := rfl
@[simp] theorem handOut_errStatus (o : Output) : (handOut o s).errStatus = s.errStatus := rfl
@[simp] theorem handOut_errInfo (o : Output) : (handOut o s).errInfo = s.errInfo := rfl
@[simp] theorem handOut_irqStatus (o : Output) : (handOut o s).irqStatus = s.irqStatus := rfl
@[simp] theorem handOut_irqEnable (o : Output) : (handOut o s).irqEnable = s.irqEnable := rfl
@[simp] theorem handOut_txfb (o : Output) : (handOut o s).txfb = s.txfb := rfl
@[simp] theorem handOut_rxfb (o : Output) : (handOut o s).rxfb = s.rxfb := rfl
@[simp] theorem handOut_cfg (o : Output) : (handOut o s).cfg = s.cfg := rfl
@[simp] theorem handOut_agenda (o : Output) : (handOut o s).agenda = s.agenda := rfl
@[simp] theorem handOut_out (o : Output) : (handOut o s).out = s.out ++ [o] := rfl
@[simp] theorem handOut_draws (o : Output) : (handOut o s).draws = s.draws := rfl

/-! ## `raise` -/

@[simp] theorem raise_ctrl (e : Exc) (sub : BitVec 8) (info : Half) : (raise e sub info s).ctrl = s.ctrl := rfl
@[simp] theorem raise_width (e : Exc) (sub : BitVec 8) (info : Half) : (raise e sub info s).width = s.width := rfl
@[simp] theorem raise_height (e : Exc) (sub : BitVec 8) (info : Half) : (raise e sub info s).height = s.height := rfl
@[simp] theorem raise_ssrc (e : Exc) (sub : BitVec 8) (info : Half) : (raise e sub info s).ssrc = s.ssrc := rfl
@[simp] theorem raise_ts (e : Exc) (sub : BitVec 8) (info : Half) : (raise e sub info s).ts = s.ts := rfl
@[simp] theorem raise_tsTick (e : Exc) (sub : BitVec 8) (info : Half) : (raise e sub info s).tsTick = s.tsTick := rfl
@[simp] theorem raise_seq (e : Exc) (sub : BitVec 8) (info : Half) : (raise e sub info s).seq = s.seq := rfl
@[simp] theorem raise_rxTimeout (e : Exc) (sub : BitVec 8) (info : Half) : (raise e sub info s).rxTimeout = s.rxTimeout := rfl
@[simp] theorem raise_txBusy (e : Exc) (sub : BitVec 8) (info : Half) : (raise e sub info s).txBusy = s.txBusy := rfl
@[simp] theorem raise_txResult (e : Exc) (sub : BitVec 8) (info : Half) : (raise e sub info s).txResult = s.txResult := rfl
@[simp] theorem raise_txLine (e : Exc) (sub : BitVec 8) (info : Half) : (raise e sub info s).txLine = s.txLine := rfl
@[simp] theorem raise_rxState (e : Exc) (sub : BitVec 8) (info : Half) : (raise e sub info s).rxState = s.rxState := rfl
@[simp] theorem raise_rxResult (e : Exc) (sub : BitVec 8) (info : Half) : (raise e sub info s).rxResult = s.rxResult := rfl
@[simp] theorem raise_seqValid (e : Exc) (sub : BitVec 8) (info : Half) : (raise e sub info s).seqValid = s.seqValid := rfl
@[simp] theorem raise_lastDrop (e : Exc) (sub : BitVec 8) (info : Half) : (raise e sub info s).lastDrop = s.lastDrop := rfl
@[simp] theorem raise_rxPktCnt (e : Exc) (sub : BitVec 8) (info : Half) : (raise e sub info s).rxPktCnt = s.rxPktCnt := rfl
@[simp] theorem raise_rxByteCnt (e : Exc) (sub : BitVec 8) (info : Half) : (raise e sub info s).rxByteCnt = s.rxByteCnt := rfl
@[simp] theorem raise_rxDropCnt (e : Exc) (sub : BitVec 8) (info : Half) : (raise e sub info s).rxDropCnt = s.rxDropCnt := rfl
@[simp] theorem raise_rxGapCnt (e : Exc) (sub : BitVec 8) (info : Half) : (raise e sub info s).rxGapCnt = s.rxGapCnt := rfl
@[simp] theorem raise_rxSeqExpect (e : Exc) (sub : BitVec 8) (info : Half) : (raise e sub info s).rxSeqExpect = s.rxSeqExpect := rfl
@[simp] theorem raise_rxhW0 (e : Exc) (sub : BitVec 8) (info : Half) : (raise e sub info s).rxhW0 = s.rxhW0 := rfl
@[simp] theorem raise_rxhTs (e : Exc) (sub : BitVec 8) (info : Half) : (raise e sub info s).rxhTs = s.rxhTs := rfl
@[simp] theorem raise_rxhSsrc (e : Exc) (sub : BitVec 8) (info : Half) : (raise e sub info s).rxhSsrc = s.rxhSsrc := rfl
@[simp] theorem raise_rxhExtseq (e : Exc) (sub : BitVec 8) (info : Half) : (raise e sub info s).rxhExtseq = s.rxhExtseq := rfl
@[simp] theorem raise_rxhNdesc (e : Exc) (sub : BitVec 8) (info : Half) : (raise e sub info s).rxhNdesc = s.rxhNdesc := rfl
@[simp] theorem raise_rxhPayoff (e : Exc) (sub : BitVec 8) (info : Half) : (raise e sub info s).rxhPayoff = s.rxhPayoff := rfl
@[simp] theorem raise_errStatus (e : Exc) (sub : BitVec 8) (info : Half) : (raise e sub info s).errStatus = s.errStatus ||| BitVec.twoPow 32 (excCode e) := rfl
@[simp] theorem raise_errInfo (e : Exc) (sub : BitVec 8) (info : Half) : (raise e sub info s).errInfo = errInfoWord (BitVec.ofNat 8 (excCode e)) sub info := rfl
@[simp] theorem raise_irqStatus (e : Exc) (sub : BitVec 8) (info : Half) : (raise e sub info s).irqStatus = s.irqStatus := rfl
@[simp] theorem raise_irqEnable (e : Exc) (sub : BitVec 8) (info : Half) : (raise e sub info s).irqEnable = s.irqEnable := rfl
@[simp] theorem raise_txfb (e : Exc) (sub : BitVec 8) (info : Half) : (raise e sub info s).txfb = s.txfb := rfl
@[simp] theorem raise_rxfb (e : Exc) (sub : BitVec 8) (info : Half) : (raise e sub info s).rxfb = s.rxfb := rfl
@[simp] theorem raise_cfg (e : Exc) (sub : BitVec 8) (info : Half) : (raise e sub info s).cfg = s.cfg := rfl
@[simp] theorem raise_agenda (e : Exc) (sub : BitVec 8) (info : Half) : (raise e sub info s).agenda = s.agenda := rfl
@[simp] theorem raise_out (e : Exc) (sub : BitVec 8) (info : Half) : (raise e sub info s).out = s.out := rfl
@[simp] theorem raise_draws (e : Exc) (sub : BitVec 8) (info : Half) : (raise e sub info s).draws = s.draws := rfl

/-! ## `drop` -/

@[simp] theorem drop_ctrl (r : DropReason) : (drop r s).ctrl = s.ctrl := rfl
@[simp] theorem drop_width (r : DropReason) : (drop r s).width = s.width := rfl
@[simp] theorem drop_height (r : DropReason) : (drop r s).height = s.height := rfl
@[simp] theorem drop_ssrc (r : DropReason) : (drop r s).ssrc = s.ssrc := rfl
@[simp] theorem drop_ts (r : DropReason) : (drop r s).ts = s.ts := rfl
@[simp] theorem drop_tsTick (r : DropReason) : (drop r s).tsTick = s.tsTick := rfl
@[simp] theorem drop_seq (r : DropReason) : (drop r s).seq = s.seq := rfl
@[simp] theorem drop_rxTimeout (r : DropReason) : (drop r s).rxTimeout = s.rxTimeout := rfl
@[simp] theorem drop_txBusy (r : DropReason) : (drop r s).txBusy = s.txBusy := rfl
@[simp] theorem drop_txResult (r : DropReason) : (drop r s).txResult = s.txResult := rfl
@[simp] theorem drop_txLine (r : DropReason) : (drop r s).txLine = s.txLine := rfl
@[simp] theorem drop_rxState (r : DropReason) : (drop r s).rxState = s.rxState := rfl
@[simp] theorem drop_rxResult (r : DropReason) : (drop r s).rxResult = s.rxResult := rfl
@[simp] theorem drop_seqValid (r : DropReason) : (drop r s).seqValid = s.seqValid := rfl
@[simp] theorem drop_lastDrop (r : DropReason) : (drop r s).lastDrop = some r := rfl
@[simp] theorem drop_rxPktCnt (r : DropReason) : (drop r s).rxPktCnt = s.rxPktCnt := rfl
@[simp] theorem drop_rxByteCnt (r : DropReason) : (drop r s).rxByteCnt = s.rxByteCnt := rfl
@[simp] theorem drop_rxDropCnt (r : DropReason) : (drop r s).rxDropCnt = s.rxDropCnt + 1 := rfl
@[simp] theorem drop_rxGapCnt (r : DropReason) : (drop r s).rxGapCnt = s.rxGapCnt := rfl
@[simp] theorem drop_rxSeqExpect (r : DropReason) : (drop r s).rxSeqExpect = s.rxSeqExpect := rfl
@[simp] theorem drop_rxhW0 (r : DropReason) : (drop r s).rxhW0 = s.rxhW0 := rfl
@[simp] theorem drop_rxhTs (r : DropReason) : (drop r s).rxhTs = s.rxhTs := rfl
@[simp] theorem drop_rxhSsrc (r : DropReason) : (drop r s).rxhSsrc = s.rxhSsrc := rfl
@[simp] theorem drop_rxhExtseq (r : DropReason) : (drop r s).rxhExtseq = s.rxhExtseq := rfl
@[simp] theorem drop_rxhNdesc (r : DropReason) : (drop r s).rxhNdesc = s.rxhNdesc := rfl
@[simp] theorem drop_rxhPayoff (r : DropReason) : (drop r s).rxhPayoff = s.rxhPayoff := rfl
@[simp] theorem drop_errStatus (r : DropReason) : (drop r s).errStatus = s.errStatus := rfl
@[simp] theorem drop_errInfo (r : DropReason) : (drop r s).errInfo = s.errInfo := rfl
@[simp] theorem drop_irqStatus (r : DropReason) : (drop r s).irqStatus = s.irqStatus := rfl
@[simp] theorem drop_irqEnable (r : DropReason) : (drop r s).irqEnable = s.irqEnable := rfl
@[simp] theorem drop_txfb (r : DropReason) : (drop r s).txfb = s.txfb := rfl
@[simp] theorem drop_rxfb (r : DropReason) : (drop r s).rxfb = s.rxfb := rfl
@[simp] theorem drop_cfg (r : DropReason) : (drop r s).cfg = s.cfg := rfl
@[simp] theorem drop_agenda (r : DropReason) : (drop r s).agenda = s.agenda := rfl
@[simp] theorem drop_out (r : DropReason) : (drop r s).out = s.out := rfl
@[simp] theorem drop_draws (r : DropReason) : (drop r s).draws = s.draws := rfl

/-! ## `dropMalformed` -/

@[simp] theorem dropMalformed_ctrl (r : DropReason) (idx : Nat) : (dropMalformed r idx s).ctrl = s.ctrl := rfl
@[simp] theorem dropMalformed_width (r : DropReason) (idx : Nat) : (dropMalformed r idx s).width = s.width := rfl
@[simp] theorem dropMalformed_height (r : DropReason) (idx : Nat) : (dropMalformed r idx s).height = s.height := rfl
@[simp] theorem dropMalformed_ssrc (r : DropReason) (idx : Nat) : (dropMalformed r idx s).ssrc = s.ssrc := rfl
@[simp] theorem dropMalformed_ts (r : DropReason) (idx : Nat) : (dropMalformed r idx s).ts = s.ts := rfl
@[simp] theorem dropMalformed_tsTick (r : DropReason) (idx : Nat) : (dropMalformed r idx s).tsTick = s.tsTick := rfl
@[simp] theorem dropMalformed_seq (r : DropReason) (idx : Nat) : (dropMalformed r idx s).seq = s.seq := rfl
@[simp] theorem dropMalformed_rxTimeout (r : DropReason) (idx : Nat) : (dropMalformed r idx s).rxTimeout = s.rxTimeout := rfl
@[simp] theorem dropMalformed_txBusy (r : DropReason) (idx : Nat) : (dropMalformed r idx s).txBusy = s.txBusy := rfl
@[simp] theorem dropMalformed_txResult (r : DropReason) (idx : Nat) : (dropMalformed r idx s).txResult = s.txResult := rfl
@[simp] theorem dropMalformed_txLine (r : DropReason) (idx : Nat) : (dropMalformed r idx s).txLine = s.txLine := rfl
@[simp] theorem dropMalformed_rxState (r : DropReason) (idx : Nat) : (dropMalformed r idx s).rxState = s.rxState := rfl
@[simp] theorem dropMalformed_rxResult (r : DropReason) (idx : Nat) : (dropMalformed r idx s).rxResult = s.rxResult := rfl
@[simp] theorem dropMalformed_seqValid (r : DropReason) (idx : Nat) : (dropMalformed r idx s).seqValid = s.seqValid := rfl
@[simp] theorem dropMalformed_lastDrop (r : DropReason) (idx : Nat) : (dropMalformed r idx s).lastDrop = some r := rfl
@[simp] theorem dropMalformed_rxPktCnt (r : DropReason) (idx : Nat) : (dropMalformed r idx s).rxPktCnt = s.rxPktCnt := rfl
@[simp] theorem dropMalformed_rxByteCnt (r : DropReason) (idx : Nat) : (dropMalformed r idx s).rxByteCnt = s.rxByteCnt := rfl
@[simp] theorem dropMalformed_rxDropCnt (r : DropReason) (idx : Nat) : (dropMalformed r idx s).rxDropCnt = s.rxDropCnt + 1 := rfl
@[simp] theorem dropMalformed_rxGapCnt (r : DropReason) (idx : Nat) : (dropMalformed r idx s).rxGapCnt = s.rxGapCnt := rfl
@[simp] theorem dropMalformed_rxSeqExpect (r : DropReason) (idx : Nat) : (dropMalformed r idx s).rxSeqExpect = s.rxSeqExpect := rfl
@[simp] theorem dropMalformed_rxhW0 (r : DropReason) (idx : Nat) : (dropMalformed r idx s).rxhW0 = s.rxhW0 := rfl
@[simp] theorem dropMalformed_rxhTs (r : DropReason) (idx : Nat) : (dropMalformed r idx s).rxhTs = s.rxhTs := rfl
@[simp] theorem dropMalformed_rxhSsrc (r : DropReason) (idx : Nat) : (dropMalformed r idx s).rxhSsrc = s.rxhSsrc := rfl
@[simp] theorem dropMalformed_rxhExtseq (r : DropReason) (idx : Nat) : (dropMalformed r idx s).rxhExtseq = s.rxhExtseq := rfl
@[simp] theorem dropMalformed_rxhNdesc (r : DropReason) (idx : Nat) : (dropMalformed r idx s).rxhNdesc = s.rxhNdesc := rfl
@[simp] theorem dropMalformed_rxhPayoff (r : DropReason) (idx : Nat) : (dropMalformed r idx s).rxhPayoff = s.rxhPayoff := rfl
@[simp] theorem dropMalformed_errStatus (r : DropReason) (idx : Nat) : (dropMalformed r idx s).errStatus = s.errStatus ||| BitVec.twoPow 32 1 := rfl
@[simp] theorem dropMalformed_errInfo (r : DropReason) (idx : Nat) : (dropMalformed r idx s).errInfo = errInfoWord 1 (BitVec.ofNat 8 (dropCode r)) (BitVec.ofNat 16 idx) := rfl
@[simp] theorem dropMalformed_irqStatus (r : DropReason) (idx : Nat) : (dropMalformed r idx s).irqStatus = s.irqStatus := rfl
@[simp] theorem dropMalformed_irqEnable (r : DropReason) (idx : Nat) : (dropMalformed r idx s).irqEnable = s.irqEnable := rfl
@[simp] theorem dropMalformed_txfb (r : DropReason) (idx : Nat) : (dropMalformed r idx s).txfb = s.txfb := rfl
@[simp] theorem dropMalformed_rxfb (r : DropReason) (idx : Nat) : (dropMalformed r idx s).rxfb = s.rxfb := rfl
@[simp] theorem dropMalformed_cfg (r : DropReason) (idx : Nat) : (dropMalformed r idx s).cfg = s.cfg := rfl
@[simp] theorem dropMalformed_agenda (r : DropReason) (idx : Nat) : (dropMalformed r idx s).agenda = s.agenda := rfl
@[simp] theorem dropMalformed_out (r : DropReason) (idx : Nat) : (dropMalformed r idx s).out = s.out := rfl
@[simp] theorem dropMalformed_draws (r : DropReason) (idx : Nat) : (dropMalformed r idx s).draws = s.draws := rfl

/-! ## `enchAdvance` -/

@[simp] theorem enchAdvance_ctrl : (enchAdvance s).ctrl = s.ctrl := rfl
@[simp] theorem enchAdvance_width : (enchAdvance s).width = s.width := rfl
@[simp] theorem enchAdvance_height : (enchAdvance s).height = s.height := rfl
@[simp] theorem enchAdvance_ssrc : (enchAdvance s).ssrc = s.ssrc := rfl
@[simp] theorem enchAdvance_ts : (enchAdvance s).ts = s.ts := rfl
@[simp] theorem enchAdvance_tsTick : (enchAdvance s).tsTick = s.tsTick := rfl
@[simp] theorem enchAdvance_seq : (enchAdvance s).seq = s.seq + 1 := rfl
@[simp] theorem enchAdvance_rxTimeout : (enchAdvance s).rxTimeout = s.rxTimeout := rfl
@[simp] theorem enchAdvance_txBusy : (enchAdvance s).txBusy = s.txBusy := rfl
@[simp] theorem enchAdvance_txResult : (enchAdvance s).txResult = s.txResult := rfl
@[simp] theorem enchAdvance_txLine : (enchAdvance s).txLine = s.txLine := rfl
@[simp] theorem enchAdvance_rxState : (enchAdvance s).rxState = s.rxState := rfl
@[simp] theorem enchAdvance_rxResult : (enchAdvance s).rxResult = s.rxResult := rfl
@[simp] theorem enchAdvance_seqValid : (enchAdvance s).seqValid = s.seqValid := rfl
@[simp] theorem enchAdvance_lastDrop : (enchAdvance s).lastDrop = s.lastDrop := rfl
@[simp] theorem enchAdvance_rxPktCnt : (enchAdvance s).rxPktCnt = s.rxPktCnt := rfl
@[simp] theorem enchAdvance_rxByteCnt : (enchAdvance s).rxByteCnt = s.rxByteCnt := rfl
@[simp] theorem enchAdvance_rxDropCnt : (enchAdvance s).rxDropCnt = s.rxDropCnt := rfl
@[simp] theorem enchAdvance_rxGapCnt : (enchAdvance s).rxGapCnt = s.rxGapCnt := rfl
@[simp] theorem enchAdvance_rxSeqExpect : (enchAdvance s).rxSeqExpect = s.rxSeqExpect := rfl
@[simp] theorem enchAdvance_rxhW0 : (enchAdvance s).rxhW0 = s.rxhW0 := rfl
@[simp] theorem enchAdvance_rxhTs : (enchAdvance s).rxhTs = s.rxhTs := rfl
@[simp] theorem enchAdvance_rxhSsrc : (enchAdvance s).rxhSsrc = s.rxhSsrc := rfl
@[simp] theorem enchAdvance_rxhExtseq : (enchAdvance s).rxhExtseq = s.rxhExtseq := rfl
@[simp] theorem enchAdvance_rxhNdesc : (enchAdvance s).rxhNdesc = s.rxhNdesc := rfl
@[simp] theorem enchAdvance_rxhPayoff : (enchAdvance s).rxhPayoff = s.rxhPayoff := rfl
@[simp] theorem enchAdvance_errStatus : (enchAdvance s).errStatus = s.errStatus := rfl
@[simp] theorem enchAdvance_errInfo : (enchAdvance s).errInfo = s.errInfo := rfl
@[simp] theorem enchAdvance_irqStatus : (enchAdvance s).irqStatus = s.irqStatus := rfl
@[simp] theorem enchAdvance_irqEnable : (enchAdvance s).irqEnable = s.irqEnable := rfl
@[simp] theorem enchAdvance_txfb : (enchAdvance s).txfb = s.txfb := rfl
@[simp] theorem enchAdvance_rxfb : (enchAdvance s).rxfb = s.rxfb := rfl
@[simp] theorem enchAdvance_cfg : (enchAdvance s).cfg = s.cfg := rfl
@[simp] theorem enchAdvance_agenda : (enchAdvance s).agenda = s.agenda := rfl
@[simp] theorem enchAdvance_out : (enchAdvance s).out = s.out := rfl
@[simp] theorem enchAdvance_draws : (enchAdvance s).draws = s.draws := rfl

/-! ## `emitLine` -/

@[simp] theorem emitLine_ctrl (a : SinkAnswer) : (emitLine a s).ctrl = s.ctrl := rfl
@[simp] theorem emitLine_width (a : SinkAnswer) : (emitLine a s).width = s.width := rfl
@[simp] theorem emitLine_height (a : SinkAnswer) : (emitLine a s).height = s.height := rfl
@[simp] theorem emitLine_ssrc (a : SinkAnswer) : (emitLine a s).ssrc = s.ssrc := rfl
@[simp] theorem emitLine_ts (a : SinkAnswer) : (emitLine a s).ts = s.ts := rfl
@[simp] theorem emitLine_tsTick (a : SinkAnswer) : (emitLine a s).tsTick = s.tsTick := rfl
@[simp] theorem emitLine_seq (a : SinkAnswer) : (emitLine a s).seq = s.seq + 1 := rfl
@[simp] theorem emitLine_rxTimeout (a : SinkAnswer) : (emitLine a s).rxTimeout = s.rxTimeout := rfl
@[simp] theorem emitLine_txBusy (a : SinkAnswer) : (emitLine a s).txBusy = s.txBusy := rfl
@[simp] theorem emitLine_txResult (a : SinkAnswer) : (emitLine a s).txResult = s.txResult := rfl
@[simp] theorem emitLine_txLine (a : SinkAnswer) : (emitLine a s).txLine = s.txLine := rfl
@[simp] theorem emitLine_rxState (a : SinkAnswer) : (emitLine a s).rxState = s.rxState := rfl
@[simp] theorem emitLine_rxResult (a : SinkAnswer) : (emitLine a s).rxResult = s.rxResult := rfl
@[simp] theorem emitLine_seqValid (a : SinkAnswer) : (emitLine a s).seqValid = s.seqValid := rfl
@[simp] theorem emitLine_lastDrop (a : SinkAnswer) : (emitLine a s).lastDrop = s.lastDrop := rfl
@[simp] theorem emitLine_rxPktCnt (a : SinkAnswer) : (emitLine a s).rxPktCnt = s.rxPktCnt := rfl
@[simp] theorem emitLine_rxByteCnt (a : SinkAnswer) : (emitLine a s).rxByteCnt = s.rxByteCnt := rfl
@[simp] theorem emitLine_rxDropCnt (a : SinkAnswer) : (emitLine a s).rxDropCnt = s.rxDropCnt := rfl
@[simp] theorem emitLine_rxGapCnt (a : SinkAnswer) : (emitLine a s).rxGapCnt = s.rxGapCnt := rfl
@[simp] theorem emitLine_rxSeqExpect (a : SinkAnswer) : (emitLine a s).rxSeqExpect = s.rxSeqExpect := rfl
@[simp] theorem emitLine_rxhW0 (a : SinkAnswer) : (emitLine a s).rxhW0 = s.rxhW0 := rfl
@[simp] theorem emitLine_rxhTs (a : SinkAnswer) : (emitLine a s).rxhTs = s.rxhTs := rfl
@[simp] theorem emitLine_rxhSsrc (a : SinkAnswer) : (emitLine a s).rxhSsrc = s.rxhSsrc := rfl
@[simp] theorem emitLine_rxhExtseq (a : SinkAnswer) : (emitLine a s).rxhExtseq = s.rxhExtseq := rfl
@[simp] theorem emitLine_rxhNdesc (a : SinkAnswer) : (emitLine a s).rxhNdesc = s.rxhNdesc := rfl
@[simp] theorem emitLine_rxhPayoff (a : SinkAnswer) : (emitLine a s).rxhPayoff = s.rxhPayoff := rfl
@[simp] theorem emitLine_errStatus (a : SinkAnswer) : (emitLine a s).errStatus = s.errStatus := rfl
@[simp] theorem emitLine_errInfo (a : SinkAnswer) : (emitLine a s).errInfo = s.errInfo := rfl
@[simp] theorem emitLine_irqStatus (a : SinkAnswer) : (emitLine a s).irqStatus = s.irqStatus := rfl
@[simp] theorem emitLine_irqEnable (a : SinkAnswer) : (emitLine a s).irqEnable = s.irqEnable := rfl
@[simp] theorem emitLine_txfb (a : SinkAnswer) : (emitLine a s).txfb = s.txfb := rfl
@[simp] theorem emitLine_rxfb (a : SinkAnswer) : (emitLine a s).rxfb = s.rxfb := rfl
@[simp] theorem emitLine_cfg (a : SinkAnswer) : (emitLine a s).cfg = s.cfg := rfl
@[simp] theorem emitLine_agenda (a : SinkAnswer) : (emitLine a s).agenda = s.agenda := rfl
@[simp] theorem emitLine_out (a : SinkAnswer) : (emitLine a s).out = s.out ++ [.sent (linePacket s) a] := rfl
@[simp] theorem emitLine_draws (a : SinkAnswer) : (emitLine a s).draws = (gatherRow s).2 := rfl

/-! ## `endPass` -/

@[simp] theorem endPass_ctrl (r : TxResult) : (endPass r s).ctrl = s.ctrl := rfl
@[simp] theorem endPass_width (r : TxResult) : (endPass r s).width = s.width := rfl
@[simp] theorem endPass_height (r : TxResult) : (endPass r s).height = s.height := rfl
@[simp] theorem endPass_ssrc (r : TxResult) : (endPass r s).ssrc = s.ssrc := rfl
@[simp] theorem endPass_ts (r : TxResult) : (endPass r s).ts = s.ts + s.tsTick := rfl
@[simp] theorem endPass_tsTick (r : TxResult) : (endPass r s).tsTick = s.tsTick := rfl
@[simp] theorem endPass_seq (r : TxResult) : (endPass r s).seq = s.seq := rfl
@[simp] theorem endPass_rxTimeout (r : TxResult) : (endPass r s).rxTimeout = s.rxTimeout := rfl
@[simp] theorem endPass_txBusy (r : TxResult) : (endPass r s).txBusy = false := rfl
@[simp] theorem endPass_txResult (r : TxResult) : (endPass r s).txResult = r := rfl
@[simp] theorem endPass_txLine (r : TxResult) : (endPass r s).txLine = s.txLine := rfl
@[simp] theorem endPass_rxState (r : TxResult) : (endPass r s).rxState = s.rxState := rfl
@[simp] theorem endPass_rxResult (r : TxResult) : (endPass r s).rxResult = s.rxResult := rfl
@[simp] theorem endPass_seqValid (r : TxResult) : (endPass r s).seqValid = s.seqValid := rfl
@[simp] theorem endPass_lastDrop (r : TxResult) : (endPass r s).lastDrop = s.lastDrop := rfl
@[simp] theorem endPass_rxPktCnt (r : TxResult) : (endPass r s).rxPktCnt = s.rxPktCnt := rfl
@[simp] theorem endPass_rxByteCnt (r : TxResult) : (endPass r s).rxByteCnt = s.rxByteCnt := rfl
@[simp] theorem endPass_rxDropCnt (r : TxResult) : (endPass r s).rxDropCnt = s.rxDropCnt := rfl
@[simp] theorem endPass_rxGapCnt (r : TxResult) : (endPass r s).rxGapCnt = s.rxGapCnt := rfl
@[simp] theorem endPass_rxSeqExpect (r : TxResult) : (endPass r s).rxSeqExpect = s.rxSeqExpect := rfl
@[simp] theorem endPass_rxhW0 (r : TxResult) : (endPass r s).rxhW0 = s.rxhW0 := rfl
@[simp] theorem endPass_rxhTs (r : TxResult) : (endPass r s).rxhTs = s.rxhTs := rfl
@[simp] theorem endPass_rxhSsrc (r : TxResult) : (endPass r s).rxhSsrc = s.rxhSsrc := rfl
@[simp] theorem endPass_rxhExtseq (r : TxResult) : (endPass r s).rxhExtseq = s.rxhExtseq := rfl
@[simp] theorem endPass_rxhNdesc (r : TxResult) : (endPass r s).rxhNdesc = s.rxhNdesc := rfl
@[simp] theorem endPass_rxhPayoff (r : TxResult) : (endPass r s).rxhPayoff = s.rxhPayoff := rfl
@[simp] theorem endPass_errStatus (r : TxResult) : (endPass r s).errStatus = s.errStatus := rfl
@[simp] theorem endPass_errInfo (r : TxResult) : (endPass r s).errInfo = s.errInfo := rfl
@[simp] theorem endPass_irqStatus (r : TxResult) : (endPass r s).irqStatus = s.irqStatus ||| txDoneBit := rfl
@[simp] theorem endPass_irqEnable (r : TxResult) : (endPass r s).irqEnable = s.irqEnable := rfl
@[simp] theorem endPass_txfb (r : TxResult) : (endPass r s).txfb = s.txfb := rfl
@[simp] theorem endPass_rxfb (r : TxResult) : (endPass r s).rxfb = s.rxfb := rfl
@[simp] theorem endPass_cfg (r : TxResult) : (endPass r s).cfg = s.cfg := rfl
@[simp] theorem endPass_agenda (r : TxResult) : (endPass r s).agenda = s.agenda := rfl
@[simp] theorem endPass_out (r : TxResult) : (endPass r s).out = s.out := rfl
@[simp] theorem endPass_draws (r : TxResult) : (endPass r s).draws = s.draws := rfl

/-! ## `latchHeader` -/

@[simp] theorem latchHeader_ctrl (hdr : Header) (n payoff : Nat) : (latchHeader hdr n payoff s).ctrl = s.ctrl := rfl
@[simp] theorem latchHeader_width (hdr : Header) (n payoff : Nat) : (latchHeader hdr n payoff s).width = s.width := rfl
@[simp] theorem latchHeader_height (hdr : Header) (n payoff : Nat) : (latchHeader hdr n payoff s).height = s.height := rfl
@[simp] theorem latchHeader_ssrc (hdr : Header) (n payoff : Nat) : (latchHeader hdr n payoff s).ssrc = s.ssrc := rfl
@[simp] theorem latchHeader_ts (hdr : Header) (n payoff : Nat) : (latchHeader hdr n payoff s).ts = s.ts := rfl
@[simp] theorem latchHeader_tsTick (hdr : Header) (n payoff : Nat) : (latchHeader hdr n payoff s).tsTick = s.tsTick := rfl
@[simp] theorem latchHeader_seq (hdr : Header) (n payoff : Nat) : (latchHeader hdr n payoff s).seq = s.seq := rfl
@[simp] theorem latchHeader_rxTimeout (hdr : Header) (n payoff : Nat) : (latchHeader hdr n payoff s).rxTimeout = s.rxTimeout := rfl
@[simp] theorem latchHeader_txBusy (hdr : Header) (n payoff : Nat) : (latchHeader hdr n payoff s).txBusy = s.txBusy := rfl
@[simp] theorem latchHeader_txResult (hdr : Header) (n payoff : Nat) : (latchHeader hdr n payoff s).txResult = s.txResult := rfl
@[simp] theorem latchHeader_txLine (hdr : Header) (n payoff : Nat) : (latchHeader hdr n payoff s).txLine = s.txLine := rfl
@[simp] theorem latchHeader_rxState (hdr : Header) (n payoff : Nat) : (latchHeader hdr n payoff s).rxState = s.rxState := rfl
@[simp] theorem latchHeader_rxResult (hdr : Header) (n payoff : Nat) : (latchHeader hdr n payoff s).rxResult = s.rxResult := rfl
@[simp] theorem latchHeader_seqValid (hdr : Header) (n payoff : Nat) : (latchHeader hdr n payoff s).seqValid = s.seqValid := rfl
@[simp] theorem latchHeader_lastDrop (hdr : Header) (n payoff : Nat) : (latchHeader hdr n payoff s).lastDrop = s.lastDrop := rfl
@[simp] theorem latchHeader_rxPktCnt (hdr : Header) (n payoff : Nat) : (latchHeader hdr n payoff s).rxPktCnt = s.rxPktCnt := rfl
@[simp] theorem latchHeader_rxByteCnt (hdr : Header) (n payoff : Nat) : (latchHeader hdr n payoff s).rxByteCnt = s.rxByteCnt := rfl
@[simp] theorem latchHeader_rxDropCnt (hdr : Header) (n payoff : Nat) : (latchHeader hdr n payoff s).rxDropCnt = s.rxDropCnt := rfl
@[simp] theorem latchHeader_rxGapCnt (hdr : Header) (n payoff : Nat) : (latchHeader hdr n payoff s).rxGapCnt = s.rxGapCnt := rfl
@[simp] theorem latchHeader_rxSeqExpect (hdr : Header) (n payoff : Nat) : (latchHeader hdr n payoff s).rxSeqExpect = s.rxSeqExpect := rfl
@[simp] theorem latchHeader_rxhW0 (hdr : Header) (n payoff : Nat) : (latchHeader hdr n payoff s).rxhW0 = hdr.w0 := rfl
@[simp] theorem latchHeader_rxhTs (hdr : Header) (n payoff : Nat) : (latchHeader hdr n payoff s).rxhTs = hdr.ts := rfl
@[simp] theorem latchHeader_rxhSsrc (hdr : Header) (n payoff : Nat) : (latchHeader hdr n payoff s).rxhSsrc = hdr.ssrc := rfl
@[simp] theorem latchHeader_rxhExtseq (hdr : Header) (n payoff : Nat) : (latchHeader hdr n payoff s).rxhExtseq = hdr.extseq := rfl
@[simp] theorem latchHeader_rxhNdesc (hdr : Header) (n payoff : Nat) : (latchHeader hdr n payoff s).rxhNdesc = BitVec.ofNat 16 n := rfl
@[simp] theorem latchHeader_rxhPayoff (hdr : Header) (n payoff : Nat) : (latchHeader hdr n payoff s).rxhPayoff = BitVec.ofNat 16 payoff := rfl
@[simp] theorem latchHeader_errStatus (hdr : Header) (n payoff : Nat) : (latchHeader hdr n payoff s).errStatus = s.errStatus := rfl
@[simp] theorem latchHeader_errInfo (hdr : Header) (n payoff : Nat) : (latchHeader hdr n payoff s).errInfo = s.errInfo := rfl
@[simp] theorem latchHeader_irqStatus (hdr : Header) (n payoff : Nat) : (latchHeader hdr n payoff s).irqStatus = s.irqStatus := rfl
@[simp] theorem latchHeader_irqEnable (hdr : Header) (n payoff : Nat) : (latchHeader hdr n payoff s).irqEnable = s.irqEnable := rfl
@[simp] theorem latchHeader_txfb (hdr : Header) (n payoff : Nat) : (latchHeader hdr n payoff s).txfb = s.txfb := rfl
@[simp] theorem latchHeader_rxfb (hdr : Header) (n payoff : Nat) : (latchHeader hdr n payoff s).rxfb = s.rxfb := rfl
@[simp] theorem latchHeader_cfg (hdr : Header) (n payoff : Nat) : (latchHeader hdr n payoff s).cfg = s.cfg := rfl
@[simp] theorem latchHeader_agenda (hdr : Header) (n payoff : Nat) : (latchHeader hdr n payoff s).agenda = s.agenda := rfl
@[simp] theorem latchHeader_out (hdr : Header) (n payoff : Nat) : (latchHeader hdr n payoff s).out = s.out := rfl
@[simp] theorem latchHeader_draws (hdr : Header) (n payoff : Nat) : (latchHeader hdr n payoff s).draws = s.draws := rfl

/-! ## `countAccepted` -/

@[simp] theorem countAccepted_ctrl (bytes : Nat) : (countAccepted bytes s).ctrl = s.ctrl := rfl
@[simp] theorem countAccepted_width (bytes : Nat) : (countAccepted bytes s).width = s.width := rfl
@[simp] theorem countAccepted_height (bytes : Nat) : (countAccepted bytes s).height = s.height := rfl
@[simp] theorem countAccepted_ssrc (bytes : Nat) : (countAccepted bytes s).ssrc = s.ssrc := rfl
@[simp] theorem countAccepted_ts (bytes : Nat) : (countAccepted bytes s).ts = s.ts := rfl
@[simp] theorem countAccepted_tsTick (bytes : Nat) : (countAccepted bytes s).tsTick = s.tsTick := rfl
@[simp] theorem countAccepted_seq (bytes : Nat) : (countAccepted bytes s).seq = s.seq := rfl
@[simp] theorem countAccepted_rxTimeout (bytes : Nat) : (countAccepted bytes s).rxTimeout = s.rxTimeout := rfl
@[simp] theorem countAccepted_txBusy (bytes : Nat) : (countAccepted bytes s).txBusy = s.txBusy := rfl
@[simp] theorem countAccepted_txResult (bytes : Nat) : (countAccepted bytes s).txResult = s.txResult := rfl
@[simp] theorem countAccepted_txLine (bytes : Nat) : (countAccepted bytes s).txLine = s.txLine := rfl
@[simp] theorem countAccepted_rxState (bytes : Nat) : (countAccepted bytes s).rxState = s.rxState := rfl
@[simp] theorem countAccepted_rxResult (bytes : Nat) : (countAccepted bytes s).rxResult = s.rxResult := rfl
@[simp] theorem countAccepted_seqValid (bytes : Nat) : (countAccepted bytes s).seqValid = s.seqValid := rfl
@[simp] theorem countAccepted_lastDrop (bytes : Nat) : (countAccepted bytes s).lastDrop = s.lastDrop := rfl
@[simp] theorem countAccepted_rxPktCnt (bytes : Nat) : (countAccepted bytes s).rxPktCnt = s.rxPktCnt + 1 := rfl
@[simp] theorem countAccepted_rxByteCnt (bytes : Nat) : (countAccepted bytes s).rxByteCnt = s.rxByteCnt + BitVec.ofNat 32 bytes := rfl
@[simp] theorem countAccepted_rxDropCnt (bytes : Nat) : (countAccepted bytes s).rxDropCnt = s.rxDropCnt := rfl
@[simp] theorem countAccepted_rxGapCnt (bytes : Nat) : (countAccepted bytes s).rxGapCnt = s.rxGapCnt := rfl
@[simp] theorem countAccepted_rxSeqExpect (bytes : Nat) : (countAccepted bytes s).rxSeqExpect = s.rxSeqExpect := rfl
@[simp] theorem countAccepted_rxhW0 (bytes : Nat) : (countAccepted bytes s).rxhW0 = s.rxhW0 := rfl
@[simp] theorem countAccepted_rxhTs (bytes : Nat) : (countAccepted bytes s).rxhTs = s.rxhTs := rfl
@[simp] theorem countAccepted_rxhSsrc (bytes : Nat) : (countAccepted bytes s).rxhSsrc = s.rxhSsrc := rfl
@[simp] theorem countAccepted_rxhExtseq (bytes : Nat) : (countAccepted bytes s).rxhExtseq = s.rxhExtseq := rfl
@[simp] theorem countAccepted_rxhNdesc (bytes : Nat) : (countAccepted bytes s).rxhNdesc = s.rxhNdesc := rfl
@[simp] theorem countAccepted_rxhPayoff (bytes : Nat) : (countAccepted bytes s).rxhPayoff = s.rxhPayoff := rfl
@[simp] theorem countAccepted_errStatus (bytes : Nat) : (countAccepted bytes s).errStatus = s.errStatus := rfl
@[simp] theorem countAccepted_errInfo (bytes : Nat) : (countAccepted bytes s).errInfo = s.errInfo := rfl
@[simp] theorem countAccepted_irqStatus (bytes : Nat) : (countAccepted bytes s).irqStatus = s.irqStatus := rfl
@[simp] theorem countAccepted_irqEnable (bytes : Nat) : (countAccepted bytes s).irqEnable = s.irqEnable := rfl
@[simp] theorem countAccepted_txfb (bytes : Nat) : (countAccepted bytes s).txfb = s.txfb := rfl
@[simp] theorem countAccepted_rxfb (bytes : Nat) : (countAccepted bytes s).rxfb = s.rxfb := rfl
@[simp] theorem countAccepted_cfg (bytes : Nat) : (countAccepted bytes s).cfg = s.cfg := rfl
@[simp] theorem countAccepted_agenda (bytes : Nat) : (countAccepted bytes s).agenda = s.agenda := rfl
@[simp] theorem countAccepted_out (bytes : Nat) : (countAccepted bytes s).out = s.out := rfl
@[simp] theorem countAccepted_draws (bytes : Nat) : (countAccepted bytes s).draws = s.draws := rfl

/-! ## `resetRegs` -/

@[simp] theorem resetRegs_ctrl : (resetRegs s).ctrl = 0 := rfl
@[simp] theorem resetRegs_width : (resetRegs s).width = 0 := rfl
@[simp] theorem resetRegs_height : (resetRegs s).height = 0 := rfl
@[simp] theorem resetRegs_ssrc : (resetRegs s).ssrc = 0 := rfl
@[simp] theorem resetRegs_ts : (resetRegs s).ts = 0 := rfl
@[simp] theorem resetRegs_tsTick : (resetRegs s).tsTick = 0 := rfl
@[simp] theorem resetRegs_seq : (resetRegs s).seq = 0 := rfl
@[simp] theorem resetRegs_rxTimeout : (resetRegs s).rxTimeout = 0 := rfl
@[simp] theorem resetRegs_txBusy : (resetRegs s).txBusy = false := rfl
@[simp] theorem resetRegs_txResult : (resetRegs s).txResult = .none := rfl
@[simp] theorem resetRegs_txLine : (resetRegs s).txLine = 0 := rfl
@[simp] theorem resetRegs_rxState : (resetRegs s).rxState = .idle := rfl
@[simp] theorem resetRegs_rxResult : (resetRegs s).rxResult = .none := rfl
@[simp] theorem resetRegs_seqValid : (resetRegs s).seqValid = false := rfl
@[simp] theorem resetRegs_lastDrop : (resetRegs s).lastDrop = none := rfl
@[simp] theorem resetRegs_rxPktCnt : (resetRegs s).rxPktCnt = 0 := rfl
@[simp] theorem resetRegs_rxByteCnt : (resetRegs s).rxByteCnt = 0 := rfl
@[simp] theorem resetRegs_rxDropCnt : (resetRegs s).rxDropCnt = 0 := rfl
@[simp] theorem resetRegs_rxGapCnt : (resetRegs s).rxGapCnt = 0 := rfl
@[simp] theorem resetRegs_rxSeqExpect : (resetRegs s).rxSeqExpect = 0 := rfl
@[simp] theorem resetRegs_rxhW0 : (resetRegs s).rxhW0 = 0 := rfl
@[simp] theorem resetRegs_rxhTs : (resetRegs s).rxhTs = 0 := rfl
@[simp] theorem resetRegs_rxhSsrc : (resetRegs s).rxhSsrc = 0 := rfl
@[simp] theorem resetRegs_rxhExtseq : (resetRegs s).rxhExtseq = 0 := rfl
@[simp] theorem resetRegs_rxhNdesc : (resetRegs s).rxhNdesc = 0 := rfl
@[simp] theorem resetRegs_rxhPayoff : (resetRegs s).rxhPayoff = 0 := rfl
@[simp] theorem resetRegs_errStatus : (resetRegs s).errStatus = 0 := rfl
@[simp] theorem resetRegs_errInfo : (resetRegs s).errInfo = 0 := rfl
@[simp] theorem resetRegs_irqStatus : (resetRegs s).irqStatus = 0 := rfl
@[simp] theorem resetRegs_irqEnable : (resetRegs s).irqEnable = 0 := rfl
@[simp] theorem resetRegs_txfb : (resetRegs s).txfb = s.txfb := rfl
@[simp] theorem resetRegs_rxfb : (resetRegs s).rxfb = s.rxfb := rfl
@[simp] theorem resetRegs_cfg : (resetRegs s).cfg = s.cfg := rfl
@[simp] theorem resetRegs_agenda : (resetRegs s).agenda = s.agenda := rfl
@[simp] theorem resetRegs_out : (resetRegs s).out = s.out := rfl
@[simp] theorem resetRegs_draws : (resetRegs s).draws = s.draws := rfl

/-! ## `trackSeq` (R206) -/

@[simp] theorem trackSeq_ctrl (seq : Half) :
    (trackSeq seq s).ctrl = s.ctrl := by
  unfold trackSeq; split <;> rfl
@[simp] theorem trackSeq_width (seq : Half) :
    (trackSeq seq s).width = s.width := by
  unfold trackSeq; split <;> rfl
@[simp] theorem trackSeq_height (seq : Half) :
    (trackSeq seq s).height = s.height := by
  unfold trackSeq; split <;> rfl
@[simp] theorem trackSeq_ssrc (seq : Half) :
    (trackSeq seq s).ssrc = s.ssrc := by
  unfold trackSeq; split <;> rfl
@[simp] theorem trackSeq_ts (seq : Half) :
    (trackSeq seq s).ts = s.ts := by
  unfold trackSeq; split <;> rfl
@[simp] theorem trackSeq_tsTick (seq : Half) :
    (trackSeq seq s).tsTick = s.tsTick := by
  unfold trackSeq; split <;> rfl
@[simp] theorem trackSeq_seq (seq : Half) :
    (trackSeq seq s).seq = s.seq := by
  unfold trackSeq; split <;> rfl
@[simp] theorem trackSeq_rxTimeout (seq : Half) :
    (trackSeq seq s).rxTimeout = s.rxTimeout := by
  unfold trackSeq; split <;> rfl
@[simp] theorem trackSeq_txBusy (seq : Half) :
    (trackSeq seq s).txBusy = s.txBusy := by
  unfold trackSeq; split <;> rfl
@[simp] theorem trackSeq_txResult (seq : Half) :
    (trackSeq seq s).txResult = s.txResult := by
  unfold trackSeq; split <;> rfl
@[simp] theorem trackSeq_txLine (seq : Half) :
    (trackSeq seq s).txLine = s.txLine := by
  unfold trackSeq; split <;> rfl
@[simp] theorem trackSeq_rxState (seq : Half) :
    (trackSeq seq s).rxState = s.rxState := by
  unfold trackSeq; split <;> rfl
@[simp] theorem trackSeq_rxResult (seq : Half) :
    (trackSeq seq s).rxResult = s.rxResult := by
  unfold trackSeq; split <;> rfl
@[simp] theorem trackSeq_seqValid (seq : Half) :
    (trackSeq seq s).seqValid = true := rfl
@[simp] theorem trackSeq_lastDrop (seq : Half) :
    (trackSeq seq s).lastDrop = s.lastDrop := by
  unfold trackSeq; split <;> rfl
@[simp] theorem trackSeq_rxPktCnt (seq : Half) :
    (trackSeq seq s).rxPktCnt = s.rxPktCnt := by
  unfold trackSeq; split <;> rfl
@[simp] theorem trackSeq_rxByteCnt (seq : Half) :
    (trackSeq seq s).rxByteCnt = s.rxByteCnt := by
  unfold trackSeq; split <;> rfl
@[simp] theorem trackSeq_rxDropCnt (seq : Half) :
    (trackSeq seq s).rxDropCnt = s.rxDropCnt := by
  unfold trackSeq; split <;> rfl
@[simp] theorem trackSeq_rxGapCnt (seq : Half) :
    (trackSeq seq s).rxGapCnt = if seqGapSeen seq s then s.rxGapCnt + 1 else s.rxGapCnt := by
  unfold trackSeq; split <;> rfl
@[simp] theorem trackSeq_rxSeqExpect (seq : Half) :
    (trackSeq seq s).rxSeqExpect = seq + 1 := rfl
@[simp] theorem trackSeq_rxhW0 (seq : Half) :
    (trackSeq seq s).rxhW0 = s.rxhW0 := by
  unfold trackSeq; split <;> rfl
@[simp] theorem trackSeq_rxhTs (seq : Half) :
    (trackSeq seq s).rxhTs = s.rxhTs := by
  unfold trackSeq; split <;> rfl
@[simp] theorem trackSeq_rxhSsrc (seq : Half) :
    (trackSeq seq s).rxhSsrc = s.rxhSsrc := by
  unfold trackSeq; split <;> rfl
@[simp] theorem trackSeq_rxhExtseq (seq : Half) :
    (trackSeq seq s).rxhExtseq = s.rxhExtseq := by
  unfold trackSeq; split <;> rfl
@[simp] theorem trackSeq_rxhNdesc (seq : Half) :
    (trackSeq seq s).rxhNdesc = s.rxhNdesc := by
  unfold trackSeq; split <;> rfl
@[simp] theorem trackSeq_rxhPayoff (seq : Half) :
    (trackSeq seq s).rxhPayoff = s.rxhPayoff := by
  unfold trackSeq; split <;> rfl
@[simp] theorem trackSeq_errStatus (seq : Half) :
    (trackSeq seq s).errStatus = if seqGapSeen seq s then s.errStatus ||| BitVec.twoPow 32 10 else s.errStatus := by
  unfold trackSeq; split <;> rfl
@[simp] theorem trackSeq_errInfo (seq : Half) :
    (trackSeq seq s).errInfo = if seqGapSeen seq s then errInfoWord 10 0 seq else s.errInfo := by
  unfold trackSeq; split <;> rfl
@[simp] theorem trackSeq_irqStatus (seq : Half) :
    (trackSeq seq s).irqStatus = s.irqStatus := by
  unfold trackSeq; split <;> rfl
@[simp] theorem trackSeq_irqEnable (seq : Half) :
    (trackSeq seq s).irqEnable = s.irqEnable := by
  unfold trackSeq; split <;> rfl
@[simp] theorem trackSeq_txfb (seq : Half) :
    (trackSeq seq s).txfb = s.txfb := by
  unfold trackSeq; split <;> rfl
@[simp] theorem trackSeq_rxfb (seq : Half) :
    (trackSeq seq s).rxfb = s.rxfb := by
  unfold trackSeq; split <;> rfl
@[simp] theorem trackSeq_cfg (seq : Half) :
    (trackSeq seq s).cfg = s.cfg := by
  unfold trackSeq; split <;> rfl
@[simp] theorem trackSeq_agenda (seq : Half) :
    (trackSeq seq s).agenda = s.agenda := by
  unfold trackSeq; split <;> rfl
@[simp] theorem trackSeq_out (seq : Half) :
    (trackSeq seq s).out = s.out := by
  unfold trackSeq; split <;> rfl
@[simp] theorem trackSeq_draws (seq : Half) :
    (trackSeq seq s).draws = s.draws := by
  unfold trackSeq; split <;> rfl

/-! ## `completeOn` (R210, R211) -/

@[simp] theorem completeOn_ctrl (m : BitVec 1) :
    (completeOn m s).ctrl = s.ctrl := by
  unfold completeOn; split <;> rfl
@[simp] theorem completeOn_width (m : BitVec 1) :
    (completeOn m s).width = s.width := by
  unfold completeOn; split <;> rfl
@[simp] theorem completeOn_height (m : BitVec 1) :
    (completeOn m s).height = s.height := by
  unfold completeOn; split <;> rfl
@[simp] theorem completeOn_ssrc (m : BitVec 1) :
    (completeOn m s).ssrc = s.ssrc := by
  unfold completeOn; split <;> rfl
@[simp] theorem completeOn_ts (m : BitVec 1) :
    (completeOn m s).ts = s.ts := by
  unfold completeOn; split <;> rfl
@[simp] theorem completeOn_tsTick (m : BitVec 1) :
    (completeOn m s).tsTick = s.tsTick := by
  unfold completeOn; split <;> rfl
@[simp] theorem completeOn_seq (m : BitVec 1) :
    (completeOn m s).seq = s.seq := by
  unfold completeOn; split <;> rfl
@[simp] theorem completeOn_rxTimeout (m : BitVec 1) :
    (completeOn m s).rxTimeout = s.rxTimeout := by
  unfold completeOn; split <;> rfl
@[simp] theorem completeOn_txBusy (m : BitVec 1) :
    (completeOn m s).txBusy = s.txBusy := by
  unfold completeOn; split <;> rfl
@[simp] theorem completeOn_txResult (m : BitVec 1) :
    (completeOn m s).txResult = s.txResult := by
  unfold completeOn; split <;> rfl
@[simp] theorem completeOn_txLine (m : BitVec 1) :
    (completeOn m s).txLine = s.txLine := by
  unfold completeOn; split <;> rfl
@[simp] theorem completeOn_rxState (m : BitVec 1) :
    (completeOn m s).rxState = if m = 1 then .complete else s.rxState := by
  unfold completeOn; split <;> rfl
@[simp] theorem completeOn_rxResult (m : BitVec 1) :
    (completeOn m s).rxResult = if m = 1 then .complete else s.rxResult := by
  unfold completeOn; split <;> rfl
@[simp] theorem completeOn_seqValid (m : BitVec 1) :
    (completeOn m s).seqValid = s.seqValid := by
  unfold completeOn; split <;> rfl
@[simp] theorem completeOn_lastDrop (m : BitVec 1) :
    (completeOn m s).lastDrop = s.lastDrop := by
  unfold completeOn; split <;> rfl
@[simp] theorem completeOn_rxPktCnt (m : BitVec 1) :
    (completeOn m s).rxPktCnt = s.rxPktCnt := by
  unfold completeOn; split <;> rfl
@[simp] theorem completeOn_rxByteCnt (m : BitVec 1) :
    (completeOn m s).rxByteCnt = s.rxByteCnt := by
  unfold completeOn; split <;> rfl
@[simp] theorem completeOn_rxDropCnt (m : BitVec 1) :
    (completeOn m s).rxDropCnt = s.rxDropCnt := by
  unfold completeOn; split <;> rfl
@[simp] theorem completeOn_rxGapCnt (m : BitVec 1) :
    (completeOn m s).rxGapCnt = s.rxGapCnt := by
  unfold completeOn; split <;> rfl
@[simp] theorem completeOn_rxSeqExpect (m : BitVec 1) :
    (completeOn m s).rxSeqExpect = s.rxSeqExpect := by
  unfold completeOn; split <;> rfl
@[simp] theorem completeOn_rxhW0 (m : BitVec 1) :
    (completeOn m s).rxhW0 = s.rxhW0 := by
  unfold completeOn; split <;> rfl
@[simp] theorem completeOn_rxhTs (m : BitVec 1) :
    (completeOn m s).rxhTs = s.rxhTs := by
  unfold completeOn; split <;> rfl
@[simp] theorem completeOn_rxhSsrc (m : BitVec 1) :
    (completeOn m s).rxhSsrc = s.rxhSsrc := by
  unfold completeOn; split <;> rfl
@[simp] theorem completeOn_rxhExtseq (m : BitVec 1) :
    (completeOn m s).rxhExtseq = s.rxhExtseq := by
  unfold completeOn; split <;> rfl
@[simp] theorem completeOn_rxhNdesc (m : BitVec 1) :
    (completeOn m s).rxhNdesc = s.rxhNdesc := by
  unfold completeOn; split <;> rfl
@[simp] theorem completeOn_rxhPayoff (m : BitVec 1) :
    (completeOn m s).rxhPayoff = s.rxhPayoff := by
  unfold completeOn; split <;> rfl
@[simp] theorem completeOn_errStatus (m : BitVec 1) :
    (completeOn m s).errStatus = s.errStatus := by
  unfold completeOn; split <;> rfl
@[simp] theorem completeOn_errInfo (m : BitVec 1) :
    (completeOn m s).errInfo = s.errInfo := by
  unfold completeOn; split <;> rfl
@[simp] theorem completeOn_irqStatus (m : BitVec 1) :
    (completeOn m s).irqStatus = if m = 1 then s.irqStatus ||| rxDoneBit else s.irqStatus := by
  unfold completeOn; split <;> rfl
@[simp] theorem completeOn_irqEnable (m : BitVec 1) :
    (completeOn m s).irqEnable = s.irqEnable := by
  unfold completeOn; split <;> rfl
@[simp] theorem completeOn_txfb (m : BitVec 1) :
    (completeOn m s).txfb = s.txfb := by
  unfold completeOn; split <;> rfl
@[simp] theorem completeOn_rxfb (m : BitVec 1) :
    (completeOn m s).rxfb = s.rxfb := by
  unfold completeOn; split <;> rfl
@[simp] theorem completeOn_cfg (m : BitVec 1) :
    (completeOn m s).cfg = s.cfg := by
  unfold completeOn; split <;> rfl
@[simp] theorem completeOn_agenda (m : BitVec 1) :
    (completeOn m s).agenda = s.agenda := by
  unfold completeOn; split <;> rfl
@[simp] theorem completeOn_out (m : BitVec 1) :
    (completeOn m s).out = s.out := by
  unfold completeOn; split <;> rfl
@[simp] theorem completeOn_draws (m : BitVec 1) :
    (completeOn m s).draws = s.draws := by
  unfold completeOn; split <;> rfl

end

end Sys2Proof.Machine
end

