-- ==== Sys2Proof/Laws/Step.lean ====
section
/-! SUPPORT. What one step can do, said once: the state each arm of `exec` answers, and the cases of
`step`. -/

namespace Sys2Proof.Machine

/-- The state a step of the table answers. -/
def after (i : Instr) (s : State) : State :=
  match i with
  | .packd length line c offset => handOut (.bytes (packDesc ⟨length, line, c, offset⟩)) s
  | .unpkd b0 b1 b2 b3 b4 b5 => handOut (.desc (unpackDesc [b0, b1, b2, b3, b4, b5] 0)) s
  | .descLast length line offset => chainTurn ⟨length, line, 0, offset⟩ s
  | .descMore length line offset => chainTurn ⟨length, line, 1, offset⟩ s
  | .ench line last ts ssrc n => handOut (.bytes (enchHeader line last ts ssrc n s)) (enchAdvance s)
  | .dech d => handOut (.decoded (dech s.cfg d)) s
  | .pktLine seq answer => txlineEmitting false seq answer s
  | .pktLast seq answer => txlineEmitting true seq answer s
  | .txline answer => txline answer s
  | .rxpktV1 d => rxpkt d s
  | .rxpktV0 d => rxpkt d s
  | .nop => nop s
  | .txframe => txframe s
  | .rxframe => rxframe s
  | .rxrel => rxrel s
  | .softrst => softrst s
  | .cmdReserved code => reservedCommand code s
  | .rxtmo => rxtmo s
  | .regrd off => handOut (.value (readOffset off s)) s
  | .regwr off v => regwr off v s

/-- `exec` answers `after`, for every step of the table. -/
theorem exec_eq_after (i : Instr) (s : State) : exec i s = .next (after i s) := by
  cases i <;> rfl

theorem after_of_exec {i : Instr} {s t : State} (h : exec i s = .next t) : t = after i s := by
  rw [exec_eq_after] at h
  injection h with h
  exact h.symm

/-- The ways `TXLINE` can go (R174). -/
theorem txline_cases (a : SinkAnswer) (s : State) :
    (s.txBusy = false ∧ txline a s = s)
    ∨ (s.txBusy = true ∧ a = .fail
        ∧ txline a s = raise .sendFailure 0 s.txLine (endPass .sendFailure (emitLine .fail s)))
    ∨ (s.txBusy = true ∧ a = .ok ∧ s.txLine.toNat + 1 = s.height.toNat
        ∧ txline a s = endPass .ok { emitLine .ok s with txLine := s.txLine + 1 })
    ∨ (s.txBusy = true ∧ a = .ok ∧ s.txLine.toNat + 1 ≠ s.height.toNat
        ∧ txline a s = { emitLine .ok s with txLine := s.txLine + 1 }) := by
  unfold txline
  by_cases hb : s.txBusy = true
  · cases a with
    | fail => simp [hb]
    | ok => by_cases hl : s.txLine.toNat + 1 = s.height.toNat <;> simp [hb, isLastLine, hl]
  · simp [hb]

/-- The ways `RXPKT` can go (R195). -/
theorem rxpkt_cases (d : List Byte) (s : State) :
    (s.rxState ≠ .receiving ∧ rxpkt d s = s)
    ∨ (s.rxState = .receiving ∧ ∃ r idx, rxpkt d s = dropMalformed r idx s)
    ∨ (s.rxState = .receiving ∧ ∃ hdr descs payoff, dech s.cfg d = .ok hdr descs payoff
        ∧ nonMatching hdr s = true
        ∧ rxpkt d s = raise .nonmatch 0 (hdr.w0.extractLsb' 16 16) (drop .nonmatch s))
    ∨ (s.rxState = .receiving ∧ ∃ hdr descs payoff, dech s.cfg d = .ok hdr descs payoff
        ∧ nonMatching hdr s = false ∧ geometryFault (stride s) s.height.toNat descs 0 = none
        ∧ rxpkt d s = acceptDatagram d hdr descs payoff s) := by
  unfold rxpkt
  by_cases hr : s.rxState = .receiving
  · rw [if_pos hr]
    unfold receiveDatagram
    cases hd : dech s.cfg d with
    | malformed r idx => exact .inr (.inl ⟨hr, r, idx, by simp⟩)
    | ok hdr descs payoff =>
      by_cases hn : nonMatching hdr s = true
      · exact .inr (.inr (.inl ⟨hr, hdr, descs, payoff, rfl, hn, by simp [hn]⟩))
      · cases hg : geometryFault (stride s) s.height.toNat descs 0 with
        | none => exact .inr (.inr (.inr ⟨hr, hdr, descs, payoff, rfl, by simpa using hn, hg, by simp [hn, hg]⟩))
        | some p => exact .inr (.inl ⟨hr, p.1, p.2, by simp [hn, hg]⟩)
  · exact .inl ⟨hr, if_neg hr⟩

/-- The ways `REGWR` can go (R231). -/
theorem regwr_cases (off v : Word) (s : State) :
    (off = 0 ∧ regwr off v s = command (v.setWidth 8) s)
    ∨ (∃ r, regOffset r = off ∧ regAccess r = .rw ∧ lockedReg r s = true
        ∧ regwr off v s = raise .locked 0 (off.setWidth 16) s)
    ∨ (∃ r, regOffset r = off ∧ regAccess r = .rw ∧ lockedReg r s = false
        ∧ regwr off v s = storeReg r v s)
    ∨ (∃ r, regOffset r = off ∧ regAccess r = .w1c ∧ regwr off v s = clearReg r v s)
    ∨ regwr off v s = s := by
  unfold regwr regAt
  cases hr : allRegs.find? (fun r => regOffset r == off) with
  | none => simp
  | some r =>
    have ho : regOffset r = off := by simpa using List.find?_some hr
    simp only [writeReg]
    cases ha : regAccess r with
    | wo =>
      refine .inl ⟨?_, rfl⟩
      cases r <;> simp [regAccess] at ha
      exact ho.symm
    | rw =>
      by_cases hl : lockedReg r s = true
      · exact .inr (.inl ⟨r, ho, ha, hl, by simp [hl]⟩)
      · exact .inr (.inr (.inl ⟨r, ho, ha, by simpa using hl, by simp [hl]⟩))
    | w1c => exact .inr (.inr (.inr (.inl ⟨r, ho, ha, rfl⟩)))
    | ro => exact .inr (.inr (.inr (.inr rfl)))

/-- The ways a command can go (R234). -/
theorem command_cases (c : Byte) (s : State) :
    (c = 0 ∧ command c s = nop s) ∨ (c = 1 ∧ command c s = txframe s)
    ∨ (c = 2 ∧ command c s = rxframe s) ∨ (c = 3 ∧ command c s = rxrel s)
    ∨ (c = 4 ∧ command c s = softrst s) ∨ (5 ≤ c.toNat ∧ command c s = reservedCommand c s) := by
  unfold command
  rcases hc : c.toNat with _ | _ | _ | _ | _ | n
  · exact .inl ⟨BitVec.eq_of_toNat_eq hc, rfl⟩
  · exact .inr (.inl ⟨BitVec.eq_of_toNat_eq hc, rfl⟩)
  · exact .inr (.inr (.inl ⟨BitVec.eq_of_toNat_eq hc, rfl⟩))
  · exact .inr (.inr (.inr (.inl ⟨BitVec.eq_of_toNat_eq hc, rfl⟩)))
  · exact .inr (.inr (.inr (.inr (.inl ⟨BitVec.eq_of_toNat_eq hc, rfl⟩))))
  · exact .inr (.inr (.inr (.inr (.inr ⟨by omega, rfl⟩))))

/-- The ways `TXFRAME` can go (R170). -/
theorem txframe_cases (s : State) :
    (∃ e sub, txframe s = raise e sub 1 s)
    ∨ (s.txBusy = false ∧ s.width ≠ 0 ∧ s.height ≠ 0 ∧ 20 + stride s ≤ s.cfg.maxDatagram
        ∧ txframe s = { s with txBusy := true, txResult := .none, txLine := 0 }) := by
  unfold txframe
  split
  · exact .inl ⟨_, _, rfl⟩
  · split
    · exact .inl ⟨_, _, rfl⟩
    · split
      · exact .inl ⟨_, _, rfl⟩
      · next h1 h2 h3 =>
        rw [not_or] at h2
        exact .inr ⟨by simpa using h1, h2.1, h2.2, by omega, rfl⟩

/-- The ways `RXFRAME` can go (R190). -/
theorem rxframe_cases (s : State) :
    (∃ e sub, rxframe s = raise e sub 2 s)
    ∨ (s.rxState = .idle ∧ s.width ≠ 0 ∧ s.height ≠ 0
        ∧ rxframe s = { s with
            rxState := .receiving, rxResult := .none, lastDrop := none
            rxPktCnt := 0, rxByteCnt := 0, rxDropCnt := 0 }) := by
  unfold rxframe
  split
  · exact .inl ⟨_, _, rfl⟩
  · split
    · exact .inl ⟨_, _, rfl⟩
    · next h1 h2 =>
      rw [not_or] at h2
      exact .inr ⟨by simpa using h1, h2.1, h2.2, rfl⟩

/-- The ways `RXTMO` can go (R212). -/
theorem rxtmo_cases (s : State) :
    rxtmo s = s
    ∨ (s.rxState = .receiving ∧ s.rxTimeout ≠ 0
        ∧ rxtmo s = raise .timeout 0 (s.rxPktCnt.extractLsb' 0 16)
            { s with
              rxState := .idle, rxResult := .timeout, irqStatus := s.irqStatus ||| rxDoneBit }) := by
  unfold rxtmo
  split
  · next h =>
    simp only [timeoutEnabled, Bool.and_eq_true, beq_iff_eq, bne_iff_ne] at h
    exact .inr ⟨h.1, h.2, rfl⟩
  · exact .inl rfl

/-- The ways `RXREL` can go (R215). -/
theorem rxrel_cases (s : State) :
    (s.rxState = .complete ∧ rxrel s = { s with rxState := .idle })
    ∨ (s.rxState ≠ .complete ∧ rxrel s = raise .badCmd 2 3 s) := by
  unfold rxrel
  split
  · next h => exact .inl ⟨h, rfl⟩
  · next h => exact .inr ⟨h, rfl⟩

/-- The cases of one step of the machine. -/
theorem step_cases {s t : State} (h : step s = .next t) :
    (s.agenda = [] ∧ t = s)
    ∨ ∃ rest,
      (∃ b i, s.agenda = .frame b :: rest ∧ decode b = .instr i ∧ wellFormed s.cfg i = true
        ∧ t = after i { s with agenda := rest })
      ∨ (∃ sp a bytes, s.agenda = .bufferWrite sp a bytes :: rest ∧ a + bytes.length ≤ largestFbBytes
        ∧ t = setBuffer sp (memWrite (buffer sp s) a bytes) { s with agenda := rest })
      ∨ (∃ sp a n, s.agenda = .bufferRead sp a n :: rest ∧ a + n ≤ largestFbBytes
        ∧ t = { s with
            agenda := rest
            out := s.out ++ [.bufferBytes (memRead (buffer sp s) n a s.draws).1]
            draws := (memRead (buffer sp s) n a s.draws).2 })
      ∨ (s.agenda = .hardReset :: rest ∧ t = hardReset { s with agenda := rest }) := by
  unfold step at h
  cases ha : s.agenda with
  | nil => rw [ha] at h; injection h with h; exact .inl ⟨rfl, h.symm⟩
  | cons e rest =>
    rw [ha] at h
    refine .inr ⟨rest, ?_⟩
    cases e with
    | frame b =>
      simp only [runEvent] at h
      cases hd : decode b with
      | reject why => rw [hd] at h; cases h
      | instr i =>
        rw [hd] at h
        by_cases hw : wellFormed s.cfg i = true
        · simp only [hw, if_true] at h
          exact .inl ⟨b, i, rfl, hd, hw, after_of_exec h⟩
        · simp [hw] at h
    | bufferWrite sp a bytes =>
      simp only [runEvent, hostWrite, insideLargestBuffer] at h
      by_cases hb : a + bytes.length ≤ largestFbBytes
      · simp only [hb, decide_true, if_true] at h
        injection h with h
        exact .inr (.inl ⟨sp, a, bytes, rfl, hb, by rw [← h]; cases sp <;> rfl⟩)
      · simp [hb] at h
    | bufferRead sp a n =>
      simp only [runEvent, hostRead, insideLargestBuffer] at h
      by_cases hb : a + n ≤ largestFbBytes
      · simp only [hb, decide_true, if_true] at h
        injection h with h
        exact .inr (.inr (.inl ⟨sp, a, n, rfl, hb, by rw [← h]; cases sp <;> rfl⟩))
      · simp [hb] at h
    | hardReset =>
      simp only [runEvent] at h
      injection h with h
      exact .inr (.inr (.inr ⟨rfl, h.symm⟩))

end Sys2Proof.Machine
end

