-- ==== Sys2Proof/Laws/Run.lean ====
section
/-! SUPPORT. Every step of the table by what it does, in the words of Safety.lean; the laws of a sequence
of steps. -/

namespace Sys2Proof.Machine

/-! ## One step -/

theorem exec_of_offers {i : Instr} {d : List Byte} (h : offers d i = true) (s : State) :
    exec i s = .next (rxpkt d s) := by
  simp only [offers, Bool.or_eq_true, beq_iff_eq] at h
  rcases h with h | h <;> subst h <;> rfl

/-- The code a step carries as a command, said for every code at once. -/
def commandOf : Instr → Option Byte
  | .nop => some 0
  | .txframe => some 1
  | .rxframe => some 2
  | .rxrel => some 3
  | .softrst => some 4
  | .cmdReserved code => if 5 ≤ code.toNat then some code else none
  | .regwr off v => if off = 0 then some (v.setWidth 8) else none
  | _ => none

theorem carriesCommand_of_commandOf {i : Instr} {c : Byte} (h : commandOf i = some c) (n : Byte) :
    carriesCommand n i = (c == n) := by
  have hd : ∀ n : Byte, decodeCommand n = .nop ∧ n = 0 ∨ decodeCommand n = .txframe ∧ n = 1
      ∨ decodeCommand n = .rxframe ∧ n = 2 ∨ decodeCommand n = .rxrel ∧ n = 3
      ∨ decodeCommand n = .softrst ∧ n = 4 ∨ decodeCommand n = .cmdReserved n ∧ 5 ≤ n.toNat := by
    intro n
    unfold decodeCommand
    rcases hn : n.toNat with _ | _ | _ | _ | _ | k
    · exact .inl ⟨rfl, BitVec.eq_of_toNat_eq hn⟩
    · exact .inr (.inl ⟨rfl, BitVec.eq_of_toNat_eq hn⟩)
    · exact .inr (.inr (.inl ⟨rfl, BitVec.eq_of_toNat_eq hn⟩))
    · exact .inr (.inr (.inr (.inl ⟨rfl, BitVec.eq_of_toNat_eq hn⟩)))
    · exact .inr (.inr (.inr (.inr (.inl ⟨rfl, BitVec.eq_of_toNat_eq hn⟩))))
    · exact .inr (.inr (.inr (.inr (.inr ⟨rfl, by omega⟩))))
  cases i with
  | regwr off v =>
    simp only [commandOf] at h
    split at h
    · next h0 => injection h with h; subst h h0; simp [carriesCommand]
    · cases h
  | cmdReserved code =>
    simp only [commandOf] at h
    split at h
    · next h5 =>
      injection h with h; subst h
      rcases hd n with ⟨e, hn⟩ | ⟨e, hn⟩ | ⟨e, hn⟩ | ⟨e, hn⟩ | ⟨e, hn⟩ | ⟨e, hn⟩
      all_goals simp only [carriesCommand, e]
      iterate 5 (subst hn; rw [show (code == _) = false from by
        simp only [beq_eq_false_iff_ne]; rintro rfl; simp at h5]; rfl)
      by_cases hc : code = n <;> simp [hc]
    · cases h
  | nop | txframe | rxframe | rxrel | softrst =>
    simp only [commandOf] at h
    injection h with h; subst h
    rcases hd n with ⟨e, hn⟩ | ⟨e, hn⟩ | ⟨e, hn⟩ | ⟨e, hn⟩ | ⟨e, hn⟩ | ⟨e, hn⟩
    all_goals simp only [carriesCommand, e]
    iterate 5 (subst hn; rfl)
    rw [eq_comm, beq_eq_false_iff_ne.mpr (by rintro rfl; simp at hn)]; rfl
  | _ => cases h

theorem after_of_commandOf {i : Instr} {c : Byte} (h : commandOf i = some c) (s : State) :
    after i s = command c s := by
  cases i with
  | regwr off v =>
    simp only [commandOf] at h
    split at h
    · next h0 => injection h with h; subst h h0; rfl
    · cases h
  | cmdReserved code =>
    simp only [commandOf] at h
    split at h
    · next h5 =>
      injection h with h; subst h
      simp only [after, command]
      split <;> first | rfl | omega
    · cases h
  | nop | txframe | rxframe | rxrel | softrst => injection h with h; subst h; rfl
  | _ => cases h

/-- What a step of the table does: it hands something out, it encodes a header, it sends a scanline, it
takes a datagram, it runs a command, it is the timeout, it writes a register, or it changes nothing. -/
theorem after_cases (i : Instr) (s : State) :
    after i s = s
    ∨ (∃ o, after i s = handOut o s)
    ∨ (∃ line last ts ssrc n o, i = .ench line last ts ssrc n ∧ after i s = handOut o (enchAdvance s))
    ∨ (∃ a, after i s = txline a s
        ∧ (i = .txline a ∨ (∃ q, i = .pktLine q a) ∨ ∃ q, i = .pktLast q a))
    ∨ (∃ d, offers d i = true ∧ after i s = rxpkt d s)
    ∨ (∃ c, commandOf i = some c ∧ after i s = command c s)
    ∨ (∃ code, i = .cmdReserved code ∧ after i s = reservedCommand code s)
    ∨ (i = .rxtmo ∧ after i s = rxtmo s)
    ∨ (∃ r v, i = .regwr (regOffset r) v ∧ regAccess r = .rw ∧ lockedReg r s = true
        ∧ after i s = raise .locked 0 ((regOffset r).setWidth 16) s)
    ∨ (∃ r v, i = .regwr (regOffset r) v ∧ regAccess r = .rw ∧ lockedReg r s = false
        ∧ after i s = storeReg r v s)
    ∨ (∃ r v, i = .regwr (regOffset r) v ∧ regAccess r = .w1c ∧ after i s = clearReg r v s) := by
  cases i with
  | packd | unpkd | descLast | descMore | dech | regrd => exact .inr (.inl ⟨_, rfl⟩)
  | ench line last ts ssrc n => exact .inr (.inr (.inl ⟨line, last, ts, ssrc, n, _, rfl, rfl⟩))
  | pktLine q a =>
    by_cases h : isLastLine s = false ∧ s.seq = q
    · exact .inr (.inr (.inr (.inl ⟨a, if_pos h, .inr (.inl ⟨q, rfl⟩)⟩)))
    · exact .inl (if_neg h)
  | pktLast q a =>
    by_cases h : isLastLine s = true ∧ s.seq = q
    · exact .inr (.inr (.inr (.inl ⟨a, if_pos h, .inr (.inr ⟨q, rfl⟩)⟩)))
    · exact .inl (if_neg h)
  | txline a => exact .inr (.inr (.inr (.inl ⟨a, rfl, .inl rfl⟩)))
  | rxpktV1 d | rxpktV0 d => exact .inr (.inr (.inr (.inr (.inl ⟨d, by simp [offers], rfl⟩))))
  | nop | txframe | rxframe | rxrel | softrst =>
    exact .inr (.inr (.inr (.inr (.inr (.inl ⟨_, rfl, after_of_commandOf rfl s⟩)))))
  | cmdReserved code => exact .inr (.inr (.inr (.inr (.inr (.inr (.inl ⟨code, rfl, rfl⟩))))))
  | rxtmo => exact .inr (.inr (.inr (.inr (.inr (.inr (.inr (.inl ⟨rfl, rfl⟩)))))))
  | regwr off v =>
    rcases regwr_cases off v s with ⟨h0, h⟩ | ⟨r, rfl, h⟩ | ⟨r, rfl, h⟩ | ⟨r, rfl, h⟩ | h
    · exact .inr (.inr (.inr (.inr (.inr (.inl ⟨v.setWidth 8, by simp [commandOf, h0], h⟩)))))
    · exact .inr (.inr (.inr (.inr (.inr (.inr (.inr (.inr (.inl ⟨r, v, rfl, h⟩))))))))
    · exact .inr (.inr (.inr (.inr (.inr (.inr (.inr (.inr (.inr (.inl ⟨r, v, rfl, h⟩)))))))))
    · exact .inr (.inr (.inr (.inr (.inr (.inr (.inr (.inr (.inr (.inr ⟨r, v, rfl, h⟩)))))))))
    · exact .inl h

/-! ## One entry of the agenda -/

/-- The head of the agenda runs in the state whose agenda holds the rest. -/
theorem stepOn_eq (e : Event) (s : State) : stepOn e s = runEvent e s := rfl

/-- An entry that names a well-formed step is that step, with the agenda as it was. -/
theorem stepOn_of_entryStep {e : Event} {i : Instr} {s : State} (h : entryStep e = some i)
    (hw : wellFormed s.cfg i = true) : stepOn e s = .next (after i s) := by
  cases e with
  | frame b =>
    simp only [entryStep] at h
    split at h
    · next j hj =>
      injection h with h
      subst h
      simp only [stepOn_eq, runEvent, hj]
      rw [if_pos hw, exec_eq_after]
    · cases h
  | _ => cases h

/-- What an entry that stops no machine does: a well-formed step, a write of a buffer, a read of one, or the
reset input. -/
theorem stepOn_legalEntry {e : Event} {s : State} (h : legalEntry s.cfg e = true) :
    (∃ i, entryStep e = some i ∧ wellFormed s.cfg i = true
        ∧ stepOn e s = .next (after i s))
    ∨ (∃ sp a bytes, e = .bufferWrite sp a bytes
        ∧ stepOn e s
          = .next (setBuffer sp (memWrite (buffer sp s) a bytes) s))
    ∨ (∃ sp a n k r, e = .bufferRead sp a n
        ∧ stepOn e s = .next (handOut (.bufferBytes r) { s with draws := k }))
    ∨ (e = .hardReset ∧ stepOn e s = .next (hardReset s)) := by
  cases e with
  | frame b =>
    simp only [legalEntry] at h
    split at h
    · next i hi => exact .inl ⟨i, hi, h, stepOn_of_entryStep hi h⟩
    · cases h
  | bufferWrite sp a bytes =>
    exact .inr (.inl ⟨sp, a, bytes, rfl, if_pos h⟩)
  | bufferRead sp a n =>
    let m := memRead (buffer sp s) n a s.draws
    exact .inr (.inr (.inl ⟨sp, a, n, m.2, m.1, rfl, if_pos h⟩))
  | hardReset => exact .inr (.inr (.inr ⟨rfl, rfl⟩))

/-! ## A run -/

@[simp] theorem runAll_nil (s : State) : runAll [] s = .next s := rfl

theorem runAll_cons {e : Event} {es : List Event} {s t : State}
    (h : stepOn e s = .next t) : runAll (e :: es) s = runAll es t := by
  simp only [runAll, h]

/-- Where the first part of a run ends, the second begins. -/
theorem runAll_append (es fs : List Event) :
    ∀ {s t : State}, runAll es s = .next t → runAll (es ++ fs) s = runAll fs t := by
  induction es with
  | nil => intro s t h; injection h with h; rw [h]; rfl
  | cons e es ih =>
    intro s t h
    simp only [runAll, List.cons_append] at h ⊢
    cases hu : stepOn e s with
    | next u => rw [hu] at h; exact ih h
    | fault r => rw [hu] at h; cases h
    | refused r => rw [hu] at h; cases h

/-- One more entry at the end of a run. -/
theorem runAll_snoc {es : List Event} {e : Event} {s t u : State} (h : runAll es s = .next t)
    (hu : stepOn e t = .next u) : runAll (es ++ [e]) s = .next u := by
  rw [runAll_append es [e] h, runAll_cons hu, runAll_nil]

end Sys2Proof.Machine
end

