-- ==== Sys2Proof/Laws/Beside.lean ====
section
/-! SUPPORT. What the steps of the other agents leave alone: those beside a transmit pass, and those beside a
reassembly cycle (00_scope R5, 10_state R23). -/

namespace Sys2Proof.Machine

/-! ## Beside a pass -/

/-- What a transmit pass rests on is as it was, and nothing has been handed to the sink. -/
structure KeepsPass (s t : State) : Prop where
  busy : t.txBusy = s.txBusy
  line : t.txLine = s.txLine
  width : t.width = s.width
  height : t.height = s.height
  ssrc : t.ssrc = s.ssrc
  ts : t.ts = s.ts
  tick : t.tsTick = s.tsTick
  seq : t.seq = s.seq
  cfg : t.cfg = s.cfg
  sent : sentPackets t = sentPackets s

theorem KeepsPass.refl (s : State) : KeepsPass s s := by constructor <;> rfl

theorem KeepsPass.raise {s t : State} (h : KeepsPass s t) (e : Exc) (sub : BitVec 8) (info : Half) :
    KeepsPass s (raise e sub info t) := by cases h; constructor <;> assumption

/-- A thing handed out that is no packet. -/
theorem sentPackets_handOut {o : Output} (ho : ∀ p a, o ≠ .sent p a) (s : State) :
    sentPackets (handOut o s) = sentPackets s := by
  cases o <;> first | exact absurd rfl (ho _ _) | simp [sentPackets]

theorem KeepsPass.handOut {o : Output} (ho : ∀ p a, o ≠ .sent p a) (s : State) :
    KeepsPass s (handOut o s) := by
  constructor <;> first | rfl | exact sentPackets_handOut ho s

/-- The reassembler touches nothing of a pass. -/
theorem keepsPass_rxpkt (d : List Byte) (s : State) : KeepsPass s (rxpkt d s) ∧ (rxpkt d s).txfb = s.txfb := by
  rcases rxpkt_cases d s with ⟨_, e⟩ | ⟨_, r, idx, e⟩ | ⟨_, hdr, ds, p, _, _, e⟩ | ⟨_, hdr, ds, p, _, _, _, e⟩ <;>
    rw [e]
  · exact ⟨.refl s, rfl⟩
  · exact ⟨KeepsPass.raise (t := drop r s) (by constructor <;> rfl) _ _ _, rfl⟩
  · exact ⟨KeepsPass.raise (t := drop .nonmatch s) (by constructor <;> rfl) _ _ _, rfl⟩
  · simp only [acceptDatagram, completeOn, trackSeq]
    split <;> split <;> exact ⟨by constructor <;> rfl, rfl⟩

theorem keepsPass_command {c : Byte} {s : State} (hb : s.txBusy = true) (hc : c ≠ 4) :
    KeepsPass s (command c s) ∧ (command c s).txfb = s.txfb := by
  rcases command_cases c s with ⟨_, e⟩ | ⟨_, e⟩ | ⟨_, e⟩ | ⟨_, e⟩ | ⟨h, _⟩ | ⟨_, e⟩
  · rw [e]; exact ⟨.refl s, rfl⟩
  · rw [e]
    rcases txframe_cases s with ⟨x, sub, e⟩ | ⟨h, _⟩
    · rw [e]; exact ⟨(KeepsPass.refl s).raise _ _ _, rfl⟩
    · rw [hb] at h; cases h
  · rw [e]
    rcases rxframe_cases s with ⟨x, sub, e⟩ | ⟨_, _, _, e⟩ <;> rw [e]
    · exact ⟨(KeepsPass.refl s).raise _ _ _, rfl⟩
    · exact ⟨by constructor <;> rfl, rfl⟩
  · rw [e]
    rcases rxrel_cases s with ⟨_, e⟩ | ⟨_, e⟩ <;> rw [e]
    · exact ⟨by constructor <;> rfl, rfl⟩
    · exact ⟨(KeepsPass.refl s).raise _ _ _, rfl⟩
  · exact absurd h hc
  · rw [e]; exact ⟨(KeepsPass.refl s).raise _ _ _, rfl⟩

/-- A step of the table that does not reset and builds no header leaves a pass in flight alone. -/
theorem keepsPass_after {i : Instr} {s : State} (hb : s.txBusy = true) (h4 : carriesCommand 4 i = false)
    (hh : buildsHeader i = false) : KeepsPass s (after i s) ∧ (after i s).txfb = s.txfb := by
  have hcmd : ∀ {c}, commandOf i = some c → c ≠ 4 := fun hc h => by
    rw [carriesCommand_of_commandOf hc, h] at h4; cases h4
  cases i with
  | packd | unpkd | descLast | descMore | dech | regrd =>
    exact ⟨KeepsPass.handOut (by intros; simp) s, rfl⟩
  | ench | txline | pktLine | pktLast => cases hh
  | rxpktV1 d | rxpktV0 d => exact keepsPass_rxpkt d s
  | nop | txframe | rxframe | rxrel | softrst =>
    rw [after_of_commandOf rfl]; exact keepsPass_command hb (hcmd rfl)
  | cmdReserved code => exact ⟨(KeepsPass.refl s).raise _ _ _, rfl⟩
  | rxtmo =>
    show KeepsPass s (rxtmo s) ∧ _
    rcases rxtmo_cases s with e | ⟨_, _, e⟩
    · exact ⟨by rw [e]; exact .refl s, by rw [show after .rxtmo s = s from e]⟩
    · refine ⟨by rw [e]; exact KeepsPass.raise (by constructor <;> rfl) _ _ _, ?_⟩
      rw [show after .rxtmo s = _ from e]; rfl
  | regwr off v =>
    show KeepsPass s (regwr off v s) ∧ (regwr off v s).txfb = s.txfb
    rcases regwr_cases off v s with ⟨h0, e⟩ | ⟨r, _, _, _, e⟩ | ⟨r, _, ha, hl, e⟩ | ⟨r, _, ha, e⟩ | e <;> rw [e]
    · exact keepsPass_command hb (hcmd (by simp [commandOf, h0]))
    · exact ⟨(KeepsPass.refl s).raise _ _ _, rfl⟩
    · cases r <;> simp [lockedReg, hb, regAccess] at hl ha
      all_goals exact ⟨by constructor <;> rfl, rfl⟩
    · cases r <;> exact ⟨by constructor <;> rfl, rfl⟩
    · exact ⟨.refl s, rfl⟩

/-- The other agents' steps leave a pass in flight alone, and its buffer unless the host writes it. -/
theorem stepOn_besidePass {e : Event} {s : State} (hb : s.txBusy = true) (h : besidePass s.cfg e = true) :
    ∃ t, stepOn e s = .next t ∧ KeepsPass s t ∧ (writesBuffer .txfb e = false → t.txfb = s.txfb) := by
  simp only [besidePass, Bool.and_eq_true, Bool.not_eq_true'] at h
  obtain ⟨⟨hl, ha⟩, hh⟩ := h
  rcases stepOn_legalEntry hl with ⟨i, hi, _, hs⟩ | ⟨sp, a, bytes, he, hs⟩ | ⟨sp, a, n, k, r, he, hs⟩ | ⟨he, _⟩
  · simp only [abandons, hi] at ha
    rw [hi] at hh
    obtain ⟨hk, hf⟩ := keepsPass_after hb ha (by simpa using hh)
    exact ⟨_, hs, hk, fun _ => hf⟩
  · subst he
    refine ⟨_, hs, ?_, ?_⟩
    · cases sp <;> constructor <;> rfl
    · intro hw; cases sp
      · cases hw
      · rfl
  · refine ⟨_, hs, ?_, fun _ => rfl⟩
    have hr : ∀ p a, Output.bufferBytes r ≠ .sent p a := by intros; simp
    constructor <;> first | rfl | exact sentPackets_handOut hr { s with draws := k }
  · subst he; cases ha

/-! ## Beside a cycle -/

/-- What a reassembly cycle rests on is as it was. -/
structure KeepsCycle (s t : State) : Prop where
  state : t.rxState = s.rxState
  width : t.width = s.width
  height : t.height = s.height
  ctrl : t.ctrl = s.ctrl
  cfg : t.cfg = s.cfg
  fb : t.rxfb = s.rxfb
  pktCnt : t.rxPktCnt = s.rxPktCnt
  byteCnt : t.rxByteCnt = s.rxByteCnt
  dropCnt : t.rxDropCnt = s.rxDropCnt
  gapCnt : t.rxGapCnt = s.rxGapCnt
  seqExpect : t.rxSeqExpect = s.rxSeqExpect
  valid : t.seqValid = s.seqValid

theorem KeepsCycle.refl (s : State) : KeepsCycle s s := by constructor <;> rfl

theorem KeepsCycle.raise {s t : State} (h : KeepsCycle s t) (e : Exc) (sub : BitVec 8) (info : Half) :
    KeepsCycle s (raise e sub info t) := by cases h; constructor <;> assumption

/-- The fragmenter touches nothing of a cycle. -/
theorem keepsCycle_txline (a : SinkAnswer) (s : State) : KeepsCycle s (txline a s) := by
  rcases txline_cases a s with ⟨_, e⟩ | ⟨_, _, e⟩ | ⟨_, _, _, e⟩ | ⟨_, _, _, e⟩ <;> rw [e]
  · exact .refl s
  · exact KeepsCycle.raise (t := endPass .sendFailure (emitLine .fail s)) (by constructor <;> rfl) _ _ _
  · constructor <;> rfl
  · constructor <;> rfl

theorem keepsCycle_command {c : Byte} {s : State} (hr : s.rxState = .receiving) (hc : c ≠ 4) :
    KeepsCycle s (command c s) := by
  rcases command_cases c s with ⟨_, e⟩ | ⟨_, e⟩ | ⟨_, e⟩ | ⟨_, e⟩ | ⟨h, _⟩ | ⟨_, e⟩
  · rw [e]; exact .refl s
  · rw [e]
    rcases txframe_cases s with ⟨x, sub, e⟩ | ⟨_, _, _, _, e⟩ <;> rw [e]
    · exact (KeepsCycle.refl s).raise _ _ _
    · constructor <;> rfl
  · rw [e]
    rcases rxframe_cases s with ⟨x, sub, e⟩ | ⟨h, _⟩
    · rw [e]; exact (KeepsCycle.refl s).raise _ _ _
    · rw [hr] at h; cases h
  · rw [e]
    rcases rxrel_cases s with ⟨h, _⟩ | ⟨_, e⟩
    · rw [hr] at h; cases h
    · rw [e]; exact (KeepsCycle.refl s).raise _ _ _
  · exact absurd h hc
  · rw [e]; exact (KeepsCycle.refl s).raise _ _ _

/-- A step of the table that does not reset and is none of the RX engine leaves a cycle in flight alone. -/
theorem keepsCycle_after {i : Instr} {s : State} (hr : s.rxState = .receiving)
    (h4 : carriesCommand 4 i = false) (hh : stepsReassembler i = false) : KeepsCycle s (after i s) := by
  have hcmd : ∀ {c}, commandOf i = some c → c ≠ 4 := fun hc h => by
    rw [carriesCommand_of_commandOf hc, h] at h4; cases h4
  cases i with
  | packd | unpkd | descLast | descMore | dech | regrd | ench => constructor <;> rfl
  | txline a => exact keepsCycle_txline a s
  | pktLine q a | pktLast q a =>
    simp only [after, txlineEmitting]
    split
    · exact keepsCycle_txline a s
    · exact .refl s
  | rxpktV1 | rxpktV0 | rxtmo => cases hh
  | nop | txframe | rxframe | rxrel | softrst =>
    rw [after_of_commandOf rfl]; exact keepsCycle_command hr (hcmd rfl)
  | cmdReserved code => exact (KeepsCycle.refl s).raise _ _ _
  | regwr off v =>
    show KeepsCycle s (regwr off v s)
    rcases regwr_cases off v s with ⟨h0, e⟩ | ⟨r, _, _, _, e⟩ | ⟨r, _, ha, hl, e⟩ | ⟨r, _, ha, e⟩ | e <;> rw [e]
    · exact keepsCycle_command hr (hcmd (by simp [commandOf, h0]))
    · exact (KeepsCycle.refl s).raise _ _ _
    · cases r <;> simp [lockedReg, hr, regAccess] at hl ha
      all_goals constructor <;> rfl
    · cases r <;> constructor <;> rfl
    · exact .refl s

/-- The other agents' steps leave a cycle in flight alone. -/
theorem stepOn_besideCycle {e : Event} {s : State} (hr : s.rxState = .receiving)
    (h : besideCycle s.cfg e = true) : ∃ t, stepOn e s = .next t ∧ KeepsCycle s t := by
  simp only [besideCycle, Bool.and_eq_true, Bool.not_eq_true'] at h
  obtain ⟨⟨⟨hl, ha⟩, hh⟩, hw⟩ := h
  rcases stepOn_legalEntry hl with ⟨i, hi, _, hs⟩ | ⟨sp, a, bytes, he, hs⟩ | ⟨sp, a, n, k, r, he, hs⟩ | ⟨he, _⟩
  · simp only [abandons, hi] at ha
    rw [hi] at hh
    exact ⟨_, hs, keepsCycle_after hr ha (by simpa using hh)⟩
  · subst he
    cases sp
    · exact ⟨_, hs, by constructor <;> rfl⟩
    · cases hw
  · exact ⟨_, hs, by constructor <;> rfl⟩
  · subst he; cases ha

end Sys2Proof.Machine
end

