-- ==== Sys2Proof/Laws/Wire.lean ====
section
/-! SUPPORT. The laws of the wire's byte order: what a big-endian field is as a number, and how fields
are split into bytes and put together. -/

namespace Sys2Proof

/-! ## Bit fields as numbers -/

theorem append_toNat {n m : Nat} (x : BitVec n) (y : BitVec m) :
    (x ++ y).toNat = x.toNat * 2 ^ m + y.toNat := by
  rw [BitVec.toNat_append, ← Nat.shiftLeft_add_eq_or_of_lt y.isLt, Nat.shiftLeft_eq]

theorem extract_toNat {n : Nat} (x : BitVec n) (lo len : Nat) :
    (x.extractLsb' lo len).toNat = x.toNat / 2 ^ lo % 2 ^ len := by
  rw [BitVec.extractLsb'_toNat, Nat.shiftRight_eq_div_pow]

/-- `BE16` as R14 writes it. -/
theorem rd16_toNat (b : List Byte) (i : Nat) :
    (rd16 b i).toNat = (byteAt b i).toNat * 256 + (byteAt b (i + 1)).toNat := by
  simp only [rd16, append_toNat, Nat.reducePow]

/-- `BE32` as R14 writes it. -/
theorem rd32_toNat (b : List Byte) (i : Nat) :
    (rd32 b i).toNat = (byteAt b i).toNat * 16777216 + (byteAt b (i + 1)).toNat * 65536
      + (byteAt b (i + 2)).toNat * 256 + (byteAt b (i + 3)).toNat := by
  simp only [rd32, append_toNat, rd16_toNat, show i + 2 + 1 = i + 3 by omega]
  omega

/-! ## Splitting and joining -/

@[simp] theorem half_split (v : Half) : (v.extractLsb' 8 8 ++ v.extractLsb' 0 8 : Half) = v := by
  apply BitVec.eq_of_toNat_eq
  have := v.isLt
  simp only [append_toNat, extract_toNat]
  omega

@[simp] theorem word_split (v : Word) :
    ((v.extractLsb' 24 8 ++ v.extractLsb' 16 8 : Half)
      ++ (v.extractLsb' 8 8 ++ v.extractLsb' 0 8 : Half) : Word) = v := by
  apply BitVec.eq_of_toNat_eq
  have := v.isLt
  simp only [append_toNat, extract_toNat]
  omega

@[simp] theorem offset_split (v : Half) :
    (v.extractLsb' 15 1 ++ v.extractLsb' 0 15 : Half) = v := by
  apply BitVec.eq_of_toNat_eq
  have := v.isLt
  simp only [append_toNat, extract_toNat]
  omega

@[simp] theorem flag_of_append (c : BitVec 1) (o : BitVec 15) :
    (c ++ o : Half).extractLsb' 15 1 = c := by
  apply BitVec.eq_of_toNat_eq
  have := c.isLt
  have := o.isLt
  simp only [append_toNat, extract_toNat]
  omega

@[simp] theorem offset_of_append (c : BitVec 1) (o : BitVec 15) :
    (c ++ o : Half).extractLsb' 0 15 = o := by
  apply BitVec.eq_of_toNat_eq
  have := o.isLt
  simp only [append_toNat, extract_toNat]
  omega

@[simp] theorem be16_append (a b : Byte) : be16 (a ++ b) = [a, b] := by
  have ha : (a ++ b : Half).extractLsb' 8 8 = a := by
    apply BitVec.eq_of_toNat_eq
    have := a.isLt
    have := b.isLt
    simp only [append_toNat, extract_toNat]
    omega
  have hb : (a ++ b : Half).extractLsb' 0 8 = b := by
    apply BitVec.eq_of_toNat_eq
    have := b.isLt
    simp only [append_toNat, extract_toNat]
    omega
  simp only [be16]
  rw [ha, hb]

/-! ## Lengths -/

@[simp] theorem be16_length (v : Half) : (be16 v).length = 2 := rfl

@[simp] theorem be32_length (v : Word) : (be32 v).length = 4 := rfl

@[simp] theorem packDesc_length (D : Descriptor) : (packDesc D).length = 6 := rfl

@[simp] theorem headerBytes_length (seq line : Half) (last : BitVec 1) (ts ssrc : Word) (n : Half) :
    (headerBytes seq line last ts ssrc n).length = 20 := rfl

/-! ## The protocol word -/

/-- The protocol word as a number (R108): `0x80600000 + seq`, with `0x00800000` for the marker. -/
theorem protocolWord_toNat (m : BitVec 1) (seq : Half) :
    (protocolWord m seq).toNat = 0x80600000 + m.toNat * 0x00800000 + seq.toNat := by
  simp only [protocolWord, rtpVersion, rtpPayloadType, append_toNat]
  simp
  omega

/-- Reading past a prefix. -/
theorem byteAt_append_right (a b : List Byte) (i : Nat) (h : a.length ≤ i) :
    byteAt (a ++ b) i = byteAt b (i - a.length) := by
  simp [byteAt, List.getD_eq_getElem?_getD, List.getElem?_append_right h]

theorem byteAt_append_left (a b : List Byte) (i : Nat) (h : i < a.length) :
    byteAt (a ++ b) i = byteAt a i := by
  simp [byteAt, List.getD_eq_getElem?_getD, List.getElem?_append_left h]

end Sys2Proof
end

