-- ==== Sys2Proof/Laws/Codec.lean ====
section
/-! SUPPORT. What the loops of `DECH` and the word of `raise` come to, each said once. -/

namespace Sys2Proof.Machine

/-- `ERR_INFO` as R252 writes it. -/
theorem errInfoWord_toNat (code sub : BitVec 8) (info : Half) :
    (errInfoWord code sub info).toNat = info.toNat * 65536 + sub.toNat * 256 + code.toNat := by
  rw [errInfoWord, append_toNat, append_toNat]
  simp only [Nat.reducePow, Nat.reduceAdd]
  omega

/-- A chain that ends: its length, where it ends in the datagram, and each descriptor. -/
theorem readChain_ok (d : List Byte) (len : Nat) : ∀ (room n : Nat) (ds : List Descriptor),
    readChain d len room n = .ok ds →
      1 ≤ ds.length ∧ ds.length ≤ room ∧ 14 + 6 * (n + ds.length) ≤ len
      ∧ ∀ i D, ds[i]? = some D →
          D = unpackDesc d (14 + 6 * (n + i)) ∧ (D.c = 0 ↔ i + 1 = ds.length) := by
  intro room
  induction room with
  | zero => intro n ds h; simp [readChain] at h
  | succ room ih =>
    intro n ds h
    unfold readChain at h
    split at h
    · simp at h
    · next hl =>
      simp only at h
      split at h
      · next hc =>
        split at h
        · next ds' hd =>
          injection h with h
          subst h
          obtain ⟨h1, h2, h3, h4⟩ := ih _ _ hd
          refine ⟨by simp, by simpa using h2, by simp; omega, fun i D hi => ?_⟩
          cases i with
          | zero =>
            simp only [List.getElem?_cons_zero, Option.some.injEq] at hi
            subst hi
            refine ⟨rfl, ?_⟩
            simp only [chainGoesOn, bne_iff_ne, ne_eq] at hc
            have : ds' ≠ [] := by rintro rfl; simp at h1
            simpa [this] using hc
          | succ i =>
            have := h4 i D (by simpa using hi)
            rw [show n + 1 + i = n + (i + 1) by omega] at this
            simpa using this
        · simp at h
      · next hc =>
        injection h with h
        subst h
        refine ⟨by simp, by simp, by simp; omega, fun i D hi => ?_⟩
        cases i with
        | zero =>
          simp only [List.getElem?_cons_zero, Option.some.injEq] at hi
          subst hi
          simp only [chainGoesOn, bne_iff_ne, ne_eq, not_not] at hc
          simp [hc]
        | succ i => simp at hi

/-- A chain that fails: at the count cap or at the length cap, after descriptors that all went on. -/
theorem readChain_error (d : List Byte) (len : Nat) : ∀ (room n : Nat) (sub : DropReason) (idx : Nat),
    readChain d len room n = .error (sub, idx) → 14 + 6 * n ≤ len →
      (∀ i, n ≤ i → i < idx → (unpackDesc d (14 + 6 * i)).c = 1) ∧ n ≤ idx ∧ 14 + 6 * idx ≤ len
      ∧ ((sub = .tooMany ∧ idx = n + room)
        ∨ (sub = .chain ∧ idx < n + room ∧ 14 + 6 * (idx + 1) > len)) := by
  intro room
  induction room with
  | zero =>
    intro n sub idx h hn
    simp only [readChain, Except.error.injEq, Prod.mk.injEq] at h
    obtain ⟨rfl, rfl⟩ := h
    exact ⟨by omega, by omega, hn, .inl ⟨rfl, rfl⟩⟩
  | succ room ih =>
    intro n sub idx h hn
    unfold readChain at h
    split at h
    · injection h with h
      injection h with h1 h2
      subst h1 h2
      exact ⟨by omega, by omega, hn, .inr ⟨rfl, by omega, by omega⟩⟩
    · next hl =>
      simp only at h
      split at h
      · next hc =>
        split at h
        · simp at h
        · next e he =>
          injection h with h
          subst h
          obtain ⟨h1, h2, h3, h4⟩ := ih _ _ _ he (by omega)
          refine ⟨fun i hi hi2 => ?_, by omega, h3, ?_⟩
          · by_cases hin : i = n
            · subst hin
              simp only [chainGoesOn, bne_iff_ne, ne_eq] at hc
              rcases BitVec.eq_zero_or_eq_one (unpackDesc d (14 + 6 * i)).c with h | h
              · exact absurd h hc
              · exact h
            · exact h1 i (by omega) hi2
          · rcases h4 with h4 | h4
            · exact .inl ⟨h4.1, by omega⟩
            · exact .inr ⟨h4.1, by omega, h4.2.2⟩
      · simp at h

/-- What `DECH` has found when it answers `Ok`. -/
theorem dech_ok {cfg : Config} {d : List Byte} {hdr : Header} {descs : List Descriptor} {payoff : Nat}
    (h : dech cfg d = .ok hdr descs payoff) :
    20 ≤ d.length ∧ readChain d d.length cfg.maxDesc 0 = .ok descs
      ∧ payloadFault d.length descs (payloadOffset descs) 0 = none
      ∧ hdr = readHeader d ∧ payoff = payloadOffset descs := by
  unfold dech at h
  split at h
  · simp at h
  · split at h
    · simp at h
    · next ds hds =>
      split at h
      · simp at h
      · next hp =>
        injection h with h1 h2 h3
        subst h1 h2 h3
        exact ⟨by omega, hds, hp, rfl, rfl⟩

end Sys2Proof.Machine
end

