-- ==== Sys2Proof/Laws/Memory.lean ====
section
/-! SUPPORT. The laws of the frame buffers: a read after a write, the canonical form, what a `MemRead`
returns. -/

namespace Sys2Proof.Machine

/-! ## One byte -/

@[simp] theorem memGet_nil (a : Nat) : memGet [] a = none := rfl

theorem memGet_cons (k a : Nat) (b : Byte) (m : Memory) :
    memGet ((k, b) :: m) a = if k = a then some b else memGet m a := rfl

/-- A byte read after a write: the value written at that offset, the old byte elsewhere. -/
theorem memGet_memSet (m : Memory) (a x : Nat) (v : Byte) :
    memGet (memSet m a v) x = if x = a then some v else memGet m x := by
  induction m with
  | nil => by_cases h : a = x <;> simp [memSet, memGet_cons, h, eq_comm]
  | cons c m ih =>
    obtain ⟨k, b⟩ := c
    unfold memSet
    by_cases h1 : a < k
    · by_cases hx : x = a <;> simp_all [memGet_cons, eq_comm]
    · by_cases h2 : a = k
      · subst h2
        by_cases hx : x = a <;> simp_all [memGet_cons, eq_comm]
      · by_cases hx : x = a
        · subst hx; simp [memGet_cons, h1, h2, ih, Ne.symm h2]
        · simp [memGet_cons, h1, h2, ih, hx]

@[simp] theorem memGet_memSet_same (m : Memory) (a : Nat) (v : Byte) :
    memGet (memSet m a v) a = some v := by simp [memGet_memSet]

theorem memGet_memSet_other {a x : Nat} (m : Memory) (v : Byte) (h : x ≠ a) :
    memGet (memSet m a v) x = memGet m x := by simp [memGet_memSet, h]

/-! ## `MemWrite` -/

/-- What every byte is after a `MemWrite`. -/
theorem memGet_memWrite (bs : List Byte) : ∀ (m : Memory) (a x : Nat),
    memGet (memWrite m a bs) x
      = if a ≤ x ∧ x < a + bs.length then bs[x - a]? else memGet m x := by
  induction bs with
  | nil => intro m a x; simp [memWrite]
  | cons b bs ih =>
    intro m a x
    rw [memWrite, ih, memGet_memSet]
    by_cases hx : x = a
    · subst hx; simp
    · by_cases h : a + 1 ≤ x ∧ x < a + 1 + bs.length
      · have h' : a ≤ x ∧ x < a + (b :: bs).length := by simp; omega
        rw [if_pos h, if_pos h', show x - a = (x - (a + 1)) + 1 by omega, List.getElem?_cons_succ]
      · have h' : ¬ (a ≤ x ∧ x < a + (b :: bs).length) := by simp; omega
        rw [if_neg h, if_neg h', if_neg hx]

/-- A `MemWrite` leaves every offset outside its span alone. -/
theorem memGet_memWrite_outside {bs : List Byte} {m : Memory} {a x : Nat}
    (h : ¬ (a ≤ x ∧ x < a + bs.length)) : memGet (memWrite m a bs) x = memGet m x := by
  rw [memGet_memWrite, if_neg h]

/-! ## The canonical form -/

theorem risesFrom_mono {lo lo' : Nat} {m : Memory} (h : lo' ≤ lo) (hm : risesFrom lo m = true) :
    risesFrom lo' m = true := by
  cases m with
  | nil => rfl
  | cons c m =>
    simp only [risesFrom, Bool.and_eq_true, decide_eq_true_eq] at *
    exact ⟨by omega, hm.2⟩

theorem risesFrom_memSet (a : Nat) (v : Byte) (m : Memory) : ∀ lo, lo ≤ a → risesFrom lo m = true →
    risesFrom lo (memSet m a v) = true := by
  induction m with
  | nil => intro lo ha _; simp [memSet, risesFrom, ha]
  | cons c m ih =>
    obtain ⟨k, b⟩ := c
    intro lo ha hm
    simp only [risesFrom, Bool.and_eq_true, decide_eq_true_eq] at hm
    unfold memSet
    split
    · next h => simp [risesFrom, ha, hm.2]; omega
    · split
      · next h => subst h; simp [risesFrom, hm]
      · next h1 h2 => simp [risesFrom, hm.1, ih (k + 1) (by omega) hm.2]

/-- Writing a byte keeps the canonical form. -/
theorem memSet_wf {m : Memory} (a : Nat) (v : Byte) (h : m.wf = true) : (memSet m a v).wf = true :=
  risesFrom_memSet a v m 0 (Nat.zero_le _) h

/-- A `MemWrite` keeps the canonical form. -/
theorem memWrite_wf (bs : List Byte) : ∀ {m : Memory} (a : Nat), m.wf = true →
    (memWrite m a bs).wf = true := by
  induction bs with
  | nil => exact fun _ h => h
  | cons b bs ih => exact fun a h => ih (a + 1) (memSet_wf a b h)

theorem memGet_eq_none_of_risesFrom {m : Memory} : ∀ {lo a : Nat}, risesFrom lo m = true → a < lo →
    memGet m a = none := by
  induction m with
  | nil => intros; rfl
  | cons c m ih =>
    obtain ⟨k, b⟩ := c
    intro lo a hm ha
    simp only [risesFrom, Bool.and_eq_true, decide_eq_true_eq] at hm
    rw [memGet_cons, if_neg (by omega), ih hm.2 (by omega)]

/-- Two buffers in canonical form that read alike at every offset are the same list. -/
theorem memory_ext_from : ∀ {m m' : Memory} {lo : Nat}, risesFrom lo m = true →
    risesFrom lo m' = true → (∀ a, memGet m a = memGet m' a) → m = m' := by
  intro m
  induction m with
  | nil =>
    intro m' lo _ _ h
    cases m' with
    | nil => rfl
    | cons c m' => have := h c.1; simp [memGet] at this
  | cons c m ih =>
    obtain ⟨k, b⟩ := c
    intro m' lo hm hm' h
    simp only [risesFrom, Bool.and_eq_true, decide_eq_true_eq] at hm
    cases m' with
    | nil => have := h k; simp [memGet_cons] at this
    | cons c' m' =>
      obtain ⟨k', b'⟩ := c'
      simp only [risesFrom, Bool.and_eq_true, decide_eq_true_eq] at hm'
      have hk : k = k' := by
        rcases Nat.lt_trichotomy k k' with hlt | heq | hgt
        · have := h k
          rw [memGet_cons, if_pos rfl, memGet_cons, if_neg (by omega),
            memGet_eq_none_of_risesFrom hm'.2 (by omega)] at this
          cases this
        · exact heq
        · have := h k'
          rw [memGet_cons, if_neg (by omega), memGet_cons, if_pos rfl,
            memGet_eq_none_of_risesFrom hm.2 (by omega)] at this
          cases this
      subst hk
      have hb : b = b' := by have := h k; simpa [memGet_cons] using this
      subst hb
      congr 1
      refine ih hm.2 hm'.2 fun a => ?_
      by_cases ha : k = a
      · subst ha
        rw [memGet_eq_none_of_risesFrom hm.2 (by omega), memGet_eq_none_of_risesFrom hm'.2 (by omega)]
      · have := h a; simpa [memGet_cons, ha] using this

/-- Two buffers in canonical form that read alike at every offset are the same list. -/
theorem memory_ext {m m' : Memory} (h : m.wf = true) (h' : m'.wf = true)
    (hr : ∀ a, memGet m a = memGet m' a) : m = m' := memory_ext_from h h' hr

/-! ## `MemRead` -/

/-- A `MemRead` returns as many bytes as were asked for. -/
@[simp] theorem memRead_length (m : Memory) (n : Nat) : ∀ a k, (memRead m n a k).1.length = n := by
  induction n with
  | zero => intros; rfl
  | succ n ih => intro a k; simp [memRead, ih]

/-- A `MemRead` returns every byte that something has written. -/
theorem memRead_written (m : Memory) (n : Nat) : ∀ (a k j : Nat) (b : Byte), j < n →
    memGet m (a + j) = some b → (memRead m n a k).1[j]? = some b := by
  induction n with
  | zero => intro a k j b hj; omega
  | succ n ih =>
    intro a k j b hj hb
    cases j with
    | zero => simp only [Nat.add_zero] at hb; simp [memRead, readByte, hb]
    | succ j =>
      simp only [memRead, List.getElem?_cons_succ]
      exact ih (a + 1) _ j b (by omega) (by rw [← hb]; congr 1; omega)

/-- The counter of draws never falls. -/
theorem memRead_draws_le (m : Memory) (n : Nat) : ∀ a k, k ≤ (memRead m n a k).2 := by
  induction n with
  | zero => intros; exact Nat.le_refl _
  | succ n ih =>
    intro a k
    simp only [memRead]
    refine Nat.le_trans ?_ (ih _ _)
    unfold readByte
    split <;> simp

/-- Where every byte read has been written, nothing is drawn. -/
theorem memRead_draws_of_written (m : Memory) (n : Nat) : ∀ a k,
    (∀ j, j < n → (memGet m (a + j)).isSome = true) → (memRead m n a k).2 = k := by
  induction n with
  | zero => intros; rfl
  | succ n ih =>
    intro a k h
    obtain ⟨b, hb⟩ := Option.isSome_iff_exists.mp (h 0 (by omega))
    simp only [Nat.add_zero] at hb
    simp only [memRead, readByte, hb]
    exact ih (a + 1) k fun j hj => by
      have := h (j + 1) (by omega)
      rwa [show a + (j + 1) = a + 1 + j by omega] at this

end Sys2Proof.Machine
end

