-- ==== Sys2Proof/Laws/PerInstr.lean ====
section
/-! SUPPORT. A statement for every step of the table, one lemma for each constructor: the frame that
`encode` writes begins with the byte of the port the step is driven in at, and has the length of the row's
pattern. -/

namespace Sys2Proof.Laws.EncodePort

open Sys2Proof

/-- The port of a step (log 2). -/
def portOf : Instr → Port
  | .packd _ _ _ _ => .packd
  | .unpkd _ _ _ _ _ _ => .unpkd
  | .descLast _ _ _ => .desc
  | .descMore _ _ _ => .desc
  | .ench _ _ _ _ _ => .ench
  | .dech _ => .dech
  | .pktLine _ _ => .pkt
  | .pktLast _ _ => .pkt
  | .txline _ => .tx
  | .rxpktV1 _ => .src
  | .rxpktV0 _ => .src
  | .nop => .cmd
  | .txframe => .cmd
  | .rxframe => .cmd
  | .rxrel => .cmd
  | .softrst => .cmd
  | .cmdReserved _ => .cmd
  | .rxtmo => .tmo
  | .regrd _ => .regrd
  | .regwr _ _ => .regwr

/-- How many bytes stand after the port byte: the row's own pattern and its free inputs. -/
def operandBytes : Instr → Nat
  | .packd _ _ _ _ => 6
  | .unpkd _ _ _ _ _ _ => 6
  | .descLast _ _ _ => 6
  | .descMore _ _ _ => 6
  | .ench _ _ _ _ _ => 20
  | .dech d => d.length
  | .pktLine _ _ => 5
  | .pktLast _ _ => 5
  | .txline _ => 1
  | .rxpktV1 d => d.length
  | .rxpktV0 d => d.length
  | .nop => 1
  | .txframe => 1
  | .rxframe => 1
  | .rxrel => 1
  | .softrst => 1
  | .cmdReserved _ => 1
  | .rxtmo => 0
  | .regrd _ => 4
  | .regwr _ _ => 8

/-- The frame of a step: its port byte, then its operand bytes. -/
def Statement (i : Instr) : Prop :=
  ∃ operands, encode i = portByte (portOf i) :: operands ∧ operands.length = operandBytes i

theorem packd (length line : Half) (c : BitVec 1) (offset : BitVec 15) :
    Statement (.packd length line c offset) := ⟨_, rfl, rfl⟩

theorem unpkd (b0 b1 b2 b3 b4 b5 : Byte) : Statement (.unpkd b0 b1 b2 b3 b4 b5) := ⟨_, rfl, rfl⟩

theorem descLast (length line : Half) (offset : BitVec 15) :
    Statement (.descLast length line offset) := ⟨_, rfl, rfl⟩

theorem descMore (length line : Half) (offset : BitVec 15) :
    Statement (.descMore length line offset) := ⟨_, rfl, rfl⟩

theorem ench (line : Half) (last : BitVec 1) (ts ssrc : Word) (stride : Half) :
    Statement (.ench line last ts ssrc stride) := ⟨_, rfl, rfl⟩

theorem dech (d : List Byte) : Statement (.dech d) := ⟨_, rfl, rfl⟩

theorem pktLine (seq : Half) (answer : SinkAnswer) : Statement (.pktLine seq answer) := ⟨_, rfl, rfl⟩

theorem pktLast (seq : Half) (answer : SinkAnswer) : Statement (.pktLast seq answer) := ⟨_, rfl, rfl⟩

theorem txline (answer : SinkAnswer) : Statement (.txline answer) := ⟨_, rfl, rfl⟩

theorem rxpktV1 (d : List Byte) : Statement (.rxpktV1 d) := ⟨_, rfl, rfl⟩

theorem rxpktV0 (d : List Byte) : Statement (.rxpktV0 d) := ⟨_, rfl, rfl⟩

theorem nop : Statement .nop := ⟨_, rfl, rfl⟩

theorem txframe : Statement .txframe := ⟨_, rfl, rfl⟩

theorem rxframe : Statement .rxframe := ⟨_, rfl, rfl⟩

theorem rxrel : Statement .rxrel := ⟨_, rfl, rfl⟩

theorem softrst : Statement .softrst := ⟨_, rfl, rfl⟩

theorem cmdReserved (code : Byte) : Statement (.cmdReserved code) := ⟨_, rfl, rfl⟩

theorem rxtmo : Statement .rxtmo := ⟨_, rfl, rfl⟩

theorem regrd (off : Word) : Statement (.regrd off) := ⟨_, rfl, rfl⟩

theorem regwr (off v : Word) : Statement (.regwr off v) := ⟨_, rfl, rfl⟩

end Sys2Proof.Laws.EncodePort
end

