-- ==== Sys2Proof/Laws/Reassembler.lean ====
section
/-! SUPPORT. The laws of the geometry check and of the scatter write. -/

namespace Sys2Proof.Machine

/-- The geometry check passes exactly when every descriptor is inside (R201, R202). -/
theorem geometryFault_none (rowStride height : Nat) (ds : List Descriptor) : ∀ i,
    geometryFault rowStride height ds i = none
      ↔ ∀ D ∈ ds, D.line.toNat < height ∧ D.offset.toNat * 2 + D.length.toNat ≤ rowStride := by
  induction ds with
  | nil => simp [geometryFault]
  | cons D ds ih =>
    intro i
    simp only [geometryFault]
    split
    · simp; omega
    · split
      · simp; omega
      · rw [ih]; simp; omega

/-- The scatter write keeps the canonical form. -/
theorem scatter_wf (rowStride : Nat) (d : List Byte) : ∀ (ds : List Descriptor) (pos : Nat) {m : Memory},
    m.wf = true → (scatter rowStride d ds pos m).wf = true := by
  intro ds
  induction ds with
  | nil => exact fun _ _ h => h
  | cons D ds ih => exact fun _ _ h => ih _ (memWrite_wf _ _ h)

/-- An offset that no descriptor covers reads as before. -/
theorem memGet_scatter_outside (rowStride : Nat) (d : List Byte) (a : Nat) :
    ∀ (ds : List Descriptor) (pos : Nat) (m : Memory),
      (∀ D ∈ ds, ¬ (dstAddr rowStride D ≤ a ∧ a < dstAddr rowStride D + D.length.toNat)) →
      memGet (scatter rowStride d ds pos m) a = memGet m a := by
  intro ds
  induction ds with
  | nil => intros; rfl
  | cons D ds ih =>
    intro pos m h
    simp only [scatter]
    rw [ih _ _ fun E hE => h E (by simp [hE]), memGet_memWrite_outside]
    rintro ⟨h1, h2⟩
    refine h D (by simp) ⟨h1, ?_⟩
    simp only [List.length_take, List.length_drop] at h2
    omega

end Sys2Proof.Machine
end

