-- ==== Sys2Proof/Tests/Slice0.lean ====
section
/-! SUPPORT. The model's own tests: words written out from the spec's encodings, the checks of
`wellFormed`, one-step tests on the values of 95_test_vectors, and a witness for the hypotheses of each
statement that has any. -/

namespace Sys2Proof.Tests

open Sys2Proof Sys2Proof.Machine

/-! ## Helpers -/

/-- Bytes written as numbers. -/
def bytesOf (l : List Nat) : List Byte := l.map (BitVec.ofNat 8)

/-- The next state, if the outcome is one. -/
def nextOf : Host.Outcome State Fault Refusal → Option State
  | .next t => some t
  | _ => none

/-- A quantity of the state after one step of the table. -/
def got {α : Type} (f : State → α) (i : Instr) (s : State) : Option α := (nextOf (exec i s)).map f

/-- A quantity of the state after one step of the machine with this entry next. -/
def stepped {α : Type} (f : State → α) (e : Event) (s : State) : Option α :=
  (nextOf (step { s with agenda := e :: s.agenda })).map f

/-- The first 14 bytes `H14` of 95_test_vectors 2.3. -/
def h14 : List Byte := bytesOf [0x80, 0x60, 0, 1, 0, 0, 0, 0, 0, 0, 0, 0, 0, 0]

/-- V28: a pass of two scanlines of four pixels, the first not yet sent. -/
def pass28 : State :=
  { State.reset with
    width := 4, height := 2, ssrc := 0x11223344, ts := 0x1000, tsTick := 3000, seq := 0xFFFF, txBusy := true
    txfb := (List.range 16).map fun i => (i, BitVec.ofNat 8 (0x10 + i)) }

/-- V28 before its last scanline. -/
def pass28Last : State := { pass28 with seq := 0, txLine := 1 }

/-- The start of 95_test_vectors 2.5: a cycle of four by two pixels. -/
def cycle35 : State := { State.reset with width := 4, height := 2, rxState := .receiving }

/-- The first datagram of V35. -/
def d35 : List Byte := bytesOf
  [0x80, 0x60, 0xFF, 0xFF, 0, 0, 0x10, 0, 0x11, 0x22, 0x33, 0x44, 0, 0, 0, 8, 0, 0, 0, 0,
   0x10, 0x11, 0x12, 0x13, 0x14, 0x15, 0x16, 0x17]

/-- The second datagram of V35: the marker, scanline 1. -/
def d35b : List Byte := bytesOf
  [0x80, 0xE0, 0, 0, 0, 0, 0x10, 0, 0x11, 0x22, 0x33, 0x44, 0, 0, 0, 8, 0, 1, 0, 0,
   0x18, 0x19, 0x1A, 0x1B, 0x1C, 0x1D, 0x1E, 0x1F]

/-- The datagram of V37: `LINE = 2 = HEIGHT`. -/
def d37 : List Byte := bytesOf
  [0x80, 0x60, 0, 1, 0, 0, 0x10, 0, 0x11, 0x22, 0x33, 0x44, 0, 0, 0, 8, 0, 2, 0, 0,
   0x10, 0x11, 0x12, 0x13, 0x14, 0x15, 0x16, 0x17]

/-- The first datagram of V41: version 1. -/
def d41 : List Byte := bytesOf
  [0x40, 0x60, 0, 7, 0, 0, 0x10, 0, 0x11, 0x22, 0x33, 0x44, 0, 0, 0, 8, 0, 0, 0, 0,
   0x10, 0x11, 0x12, 0x13, 0x14, 0x15, 0x16, 0x17]

/-- V38 (b): `OFFSET * 2 + LENGTH = 9`, one more than `stride`. -/
def d38b : List Byte := bytesOf
  [0x80, 0x60, 0, 2, 0, 0, 0x10, 0, 0x11, 0x22, 0x33, 0x44, 0, 0, 0, 5, 0, 1, 0, 2, 1, 2, 3, 4, 5]

/-! ## Decoding, from words written out bit by bit -/

/-- R120: the command codes, at the command port. -/
theorem test_decode_commands :
    decode [0, 0x00] = .instr .nop ∧ decode [0, 0x01] = .instr .txframe
    ∧ decode [0, 0x02] = .instr .rxframe ∧ decode [0, 0x03] = .instr .rxrel
    ∧ decode [0, 0x04] = .instr .softrst ∧ decode [0, 0x05] = .instr (.cmdReserved 5) := by decide

/-- V5: `OFFW = 0x9ABC` is `C = 1`, `OFFSET = 6844`. -/
theorem test_decode_packd :
    decode [6, 0x12, 0x34, 0x56, 0x78, 0x9A, 0xBC] = .instr (.packd 4660 22136 1 6844) := by decide

theorem test_decode_unpkd :
    decode [7, 0x12, 0x34, 0x56, 0x78, 0x9A, 0xBC]
      = .instr (.unpkd 0x12 0x34 0x56 0x78 0x9A 0xBC) := by decide

/-- V4 and V6: bit 15 of `OFFW` alone tells the two rows apart. -/
theorem test_decode_descriptor_rows :
    decodeTableWord 48 0x0001FFFF_7FFF = some (.descLast 1 65535 32767)
    ∧ decodeTableWord 48 0xFFFFFFFF_FFFF = some (.descMore 65535 65535 32767)
    ∧ decodeTableWord 16 0x8000 = some (.descMore 0 0 0) := by decide

/-- V7, V8: the 20 bytes of `ENCH`, the field `s` not read. -/
theorem test_decode_ench :
    decodeTableWord 160 0x80601234_00015F90_DEADBEEF_0000_03C0_0000_0000
      = some (.ench 0 0 0x00015F90 0xDEADBEEF 960)
    ∧ decodeTableWord 160 0x82600000_00000000_00000000_0000_0000_0000_0000 = none := by decide

theorem test_decode_dech : decode (10 :: h14) = .instr (.dech h14) := by decide

/-- R108, R120: the emitted words and the offered datagrams. -/
theorem test_decode_words :
    decode [11, 0, 0x80, 0x60, 0xFF, 0xFF] = .instr (.pktLine 0xFFFF .ok)
    ∧ decode [11, 1, 0x80, 0xE0, 0x00, 0x0A] = .instr (.pktLast 10 .fail)
    ∧ decode [11, 0, 0x82, 0x60, 0x00, 0x07] = .reject .notAnEmittedWord := by decide

/-- R109: the mask leaves `P`, `X`, `CC` and the marker out. -/
theorem test_decode_offers :
    decode (4 :: d35) = .instr (.rxpktV1 d35)
    ∧ decode [4, 0xBF, 0xE0, 0, 9] = .instr (.rxpktV1 [0xBF, 0xE0, 0, 9])
    ∧ decode [4, 0x80, 0x61, 0, 8] = .instr (.rxpktV0 [0x80, 0x61, 0, 8])
    ∧ decode [4] = .instr (.rxpktV0 []) := by decide

theorem test_decode_engine_steps :
    decode [3, 0] = .instr (.txline .ok) ∧ decode [3, 1] = .instr (.txline .fail)
    ∧ decode [5] = .instr .rxtmo := by decide

theorem test_decode_registers :
    decode [1, 0, 0, 0, 0x2C] = .instr (.regrd 0x2C)
    ∧ decode [2, 0, 0, 0, 0x08, 0, 1, 0x81, 0xE0] = .instr (.regwr 0x08 0x181E0) := by decide

/-- Frames that are no step of the block. -/
theorem test_decode_rejects :
    decode [] = .reject .emptyFrame ∧ decode [12] = .reject .unknownPort
    ∧ decode [0] = .reject .commandForm ∧ decode [1, 0, 0] = .reject .busAccessForm
    ∧ decode [3, 2] = .reject .sinkAnswerForm ∧ decode [5, 0] = .reject .timeoutForm
    ∧ decode [6, 1] = .reject .descriptorForm ∧ decode [9, 0] = .reject .headerForm := by decide

/-! ## `wellFormed` refuses what is ill-formed -/

/-- The smallest parameters of R9. -/
def cfgSmall : Config := { maxDatagram := 22, maxDesc := 1 }

theorem test_wf_reserved_codes :
    wellFormed cfgSmall (.cmdReserved 4) = false ∧ wellFormed cfgSmall (.cmdReserved 5) = true := by decide

theorem test_wf_dech_length :
    wellFormed cfgSmall (.dech (List.replicate 23 0)) = false
    ∧ wellFormed cfgSmall (.dech (List.replicate 22 0)) = true := by decide

theorem test_wf_offer_length :
    wellFormed cfgSmall (.rxpktV1 d35) = false ∧ wellFormed Config.testVectors (.rxpktV1 d35) = true
    ∧ wellFormed cfgSmall (.rxpktV0 d41) = false := by decide

theorem test_wf_offer_row :
    wellFormed Config.testVectors (.rxpktV0 d35) = false
    ∧ wellFormed Config.testVectors (.rxpktV1 d41) = false
    ∧ wellFormed Config.testVectors (.rxpktV0 d41) = true := by decide

/-- The bounds of R9. -/
theorem test_config_bounds :
    cfgSmall.wf = true ∧ ({ maxDatagram := 21, maxDesc := 1 } : Config).wf = false
    ∧ ({ maxDatagram := 2048, maxDesc := 340 } : Config).wf = false
    ∧ ({ maxDatagram := 2048, maxDesc := 0 } : Config).wf = false := by decide

/-! ## One step of each row, on the values of 95_test_vectors -/

/-- V2. -/
theorem test_packd :
    got State.out (.packd 4 2 1 2) State.reset = some [.bytes (bytesOf [0, 4, 0, 2, 0x80, 2])] := by decide

/-- V5. -/
theorem test_unpkd :
    got State.out (.unpkd 0x12 0x34 0x56 0x78 0x9A 0xBC) State.reset
      = some [.desc ⟨4660, 22136, 1, 6844⟩] := by decide

/-- V15 and V19: which descriptor ends the chain. -/
theorem test_descriptor_rows :
    got State.out (.descLast 0 0 0) State.reset = some [.chainLink ⟨0, 0, 0, 0⟩ false]
    ∧ got State.out (.descMore 0 0 0) State.reset = some [.chainLink ⟨0, 0, 1, 0⟩ true] := by decide

/-- V8: the header and the wrap of `SEQ`. -/
theorem test_ench :
    got (fun t => (t.out, t.seq)) (.ench 479 1 0x00015F90 0xDEADBEEF 960) { State.reset with seq := 0xFFFF }
      = some ([.bytes (bytesOf [0x80, 0xE0, 0xFF, 0xFF, 0, 1, 0x5F, 0x90, 0xDE, 0xAD, 0xBE, 0xEF, 0, 0,
          3, 0xC0, 1, 0xDF, 0, 0])], 0) := by decide

/-- V26b, first part. -/
theorem test_dech_payload :
    dech ⟨2048, 339⟩ (h14 ++ bytesOf [0, 2, 0, 0, 0x80, 0, 0, 3, 0, 1, 0, 0, 0xAA, 0xBB, 0xCC, 0xDD])
      = .malformed .payload 1 := by decide

/-- V26. -/
theorem test_dech_fields :
    dech ⟨2048, 339⟩ (bytesOf [0xBF, 0x60, 0x12, 0x34, 0, 0, 0, 1, 0, 0, 0, 2, 0xAB, 0xCD, 0, 0, 0, 0, 0, 0])
      = .ok ⟨0xBF601234, 2, 1, 1, 15, 0, 96, 0x1234, 1, 2, 0xABCD⟩ [⟨0, 0, 0, 0⟩] 20 := by decide

/-- V28, second step: the marker, both registers, the end of the pass. -/
theorem test_txline_last :
    got (fun t => (t.out, t.seq, t.txLine, t.ts)) (.txline .ok) pass28Last
      = some ([.sent d35b .ok], 1, 2, 0x1BB8)
    ∧ got (fun t => (txStatusWord t, t.irqStatus)) (.txline .ok) pass28Last = some (2, 1) := by decide

/-- V32 (b), on V28's state: the sink refuses the last scanline. -/
theorem test_txline_fail :
    got (fun t => (txStatusWord t, t.txLine, t.seq, t.errInfo)) (.txline .fail) pass28Last
      = some (4, 1, 1, 0x00010002) := by decide

/-- V28, first step, by the word it emits; a word that does not come next changes nothing. -/
theorem test_pktLine :
    got (fun t => (t.out, t.seq, t.txLine)) (.pktLine 0xFFFF .ok) pass28
      = some ([.sent d35 .ok], 0, 1)
    ∧ got State.txLine (.pktLine 0xFFFE .ok) pass28 = some 0 := by decide

theorem test_pktLast :
    got (fun t => (t.txBusy, t.txLine)) (.pktLast 0 .ok) pass28Last = some (false, 2)
    ∧ got (fun t => (t.txBusy, t.txLine)) (.pktLast 0xFFFF .ok) pass28 = some (true, 0) := by decide

/-- V35, first datagram. -/
theorem test_rxpktV1 :
    got (fun t => (rxStatusWord t, t.rxByteCnt, t.rxSeqExpect, t.rxhW0)) (.rxpktV1 d35) cycle35
      = some (0x11, 8, 0, 0x8060FFFF)
    ∧ got State.rxfb (.rxpktV1 d35) cycle35
      = some ((List.range 8).map fun i => (i, BitVec.ofNat 8 (0x10 + i))) := by decide

/-- V37: `LINE = HEIGHT` is dropped. -/
theorem test_rxpktV1_line :
    got (fun t => (rxStatusWord t, t.rxDropCnt, t.errStatus, t.errInfo)) (.rxpktV1 d37) cycle35
      = some (0x501, 1, 2, 0x501)
    ∧ got State.rxfb (.rxpktV1 d37) cycle35 = some [] := by decide

/-- V41: validation drops it when on, and not when off. -/
theorem test_rxpktV0 :
    got (fun t => (rxStatusWord t, t.errStatus, t.errInfo)) (.rxpktV0 d41) { cycle35 with ctrl := 1 }
      = some (0x701, 0x200, 0x40600009)
    ∧ got (fun t => (rxStatusWord t, t.rxPktCnt)) (.rxpktV0 d41) cycle35 = some (0x11, 1) := by decide

theorem test_nop : got (fun t => (t.errStatus, t.rxState)) .nop cycle35 = some (0, .receiving) := by decide

/-- V33, V34. -/
theorem test_txframe :
    got (fun t => (t.txBusy, t.errStatus, t.errInfo)) .txframe State.reset = some (false, 0x20, 0x00010105)
    ∧ got (fun t => (t.txBusy, t.errInfo)) .txframe { State.reset with width := 1015, height := 1 }
      = some (false, 0x00010205)
    ∧ got (fun t => (t.txBusy, t.errInfo)) .txframe { State.reset with width := 1014, height := 1 }
      = some (true, 0) := by decide

/-- V36: refused in Complete; accepted in Idle. -/
theorem test_rxframe :
    got (fun t => (t.rxState, t.errStatus, t.errInfo)) .rxframe { cycle35 with rxState := .complete }
      = some (.complete, 0x40, 0x00020006)
    ∧ got rxStatusWord .rxframe { cycle35 with rxState := .idle } = some 1 := by decide

/-- V36. -/
theorem test_rxrel :
    got rxStatusWord .rxrel { cycle35 with rxState := .complete, rxResult := .complete, seqValid := true }
      = some 0x14
    ∧ got (fun t => (t.errStatus, t.errInfo)) .rxrel State.reset = some (0x80, 0x00030207) := by decide

/-- R236: a pass is dropped without a completion, and the buffer stays. -/
theorem test_softrst :
    got (fun t => (t.txBusy, t.width, t.irqStatus, memGet t.txfb 15)) .softrst pass28
      = some (false, 0, 0, some 0x1F) := by decide

/-- V55: the reserved codes `0x05` and `0xFF`. -/
theorem test_cmdReserved :
    got (fun t => (t.errStatus, t.errInfo)) (.cmdReserved 0x05) State.reset = some (0x80, 0x00050107)
    ∧ got State.errInfo (.cmdReserved 0xFF) State.reset = some 0x00FF0107 := by decide

/-- V47: the timeout after one accepted datagram; without a bound the step is not enabled. -/
theorem test_rxtmo :
    got (fun t => (rxStatusWord t, t.errStatus, t.errInfo, t.irqStatus)) .rxtmo
      { cycle35 with rxTimeout := 100, rxPktCnt := 1, seqValid := true } = some (0x18, 8, 0x00010003, 2)
    ∧ got rxStatusWord .rxtmo cycle35 = some 1 := by decide

/-- R37, R40, R230. -/
theorem test_regrd :
    got State.out (.regrd 0x2C) { cycle35 with lastDrop := some .line, seqValid := true }
      = some [.value 0x511]
    ∧ got State.out (.regrd 0x00) pass28 = some [.value 0] := by decide

/-- V53: `wr WIDTH, 0x000181E0` stores 15 bits; V57: a locked register. -/
theorem test_regwr :
    got State.width (.regwr 0x08 0x000181E0) State.reset = some 0x01E0
    ∧ got (fun t => (t.width, t.errStatus, t.errInfo)) (.regwr 0x08 8) cycle35
      = some (4, 0x100, 0x00080008) := by decide

/-- The events beside the table: a host write, a host read of it, the reset input. -/
theorem test_host_events :
    stepped State.txfb (.bufferWrite .txfb 2 [0xCD, 0xAB]) State.reset = some [(2, 0xCD), (3, 0xAB)]
    ∧ stepped State.out (.bufferRead .txfb 14 2) pass28 = some [.bufferBytes [0x1E, 0x1F]]
    ∧ stepped (fun t => (t.txBusy, t.txfb)) .hardReset pass28 = some (false, []) := by decide

/-- Every register has an offset of its own. -/
theorem test_register_map :
    allRegs.length = 27 ∧ (∀ r ∈ allRegs, regAt (regOffset r) = some r) := by decide

/-- `withFetchWord` makes the next step the table word's. -/
theorem test_withFetchWord :
    (nextOf (step (State.reset.withFetchWord 8 2))).map State.errInfo = some 0x00020105 := by decide

/-! ## Witnesses: the hypotheses of the statements can be met, each clause at the edge of its range -/

theorem witness_DecodeOfEncodeIsTheStep :
    wellFormed Config.testVectors (.rxpktV1 d35) = true
    ∧ wellFormed Config.testVectors (.cmdReserved 5) = true
    ∧ wellFormed Config.testVectors (.cmdReserved 255) = true
    ∧ wellFormed Config.testVectors (.ench 65535 1 0xFFFFFFFF 0xFFFFFFFF 65535) = true := by decide

theorem witness_DecodedStepsAreWellFormed :
    decode (4 :: d41) = .instr (.rxpktV0 d41) ∧ decode (10 :: d35) = .instr (.dech d35)
    ∧ decode [0, 5] = .instr (.cmdReserved 5) := by decide

theorem witness_DechShortBelowTwentyBytes :
    (List.replicate 19 (0 : Byte)).length < 20 ∧ 20 ≤ (List.replicate 20 (0 : Byte)).length := by decide

/-- The hypothesis `dech cfg d = .ok …` of the statements about what `DECH` accepts: V23, two descriptors,
and V18, a byte after the payload. -/
theorem witness_dech_accepts :
    dech ⟨2048, 339⟩ (h14 ++ bytesOf [0, 0, 0, 0, 0x80, 0, 0, 0, 0, 0, 0, 0])
      = .ok ⟨0x80600001, 2, 0, 0, 0, 0, 96, 1, 0, 0, 0⟩ [⟨0, 0, 1, 0⟩, ⟨0, 0, 0, 0⟩] 26
    ∧ dech ⟨2048, 339⟩ (h14 ++ bytesOf [0, 1, 0, 0, 0, 0, 0xAA, 0xBB])
      = .ok ⟨0x80600001, 2, 0, 0, 0, 0, 96, 1, 0, 0, 0⟩ [⟨1, 0, 0, 0⟩] 20 := by decide

/-- V26c, V20, V16: each structural fault of a datagram of at least 20 bytes. -/
theorem witness_DechReportsTheFirstStructuralFault :
    dech ⟨2048, 2⟩ (h14 ++ bytesOf [0, 0, 0, 0, 0x80, 0, 0, 0, 0, 0, 0x80, 0, 0, 0, 0, 0, 0, 0])
      = .malformed .tooMany 2
    ∧ dech ⟨2048, 339⟩ (h14 ++ bytesOf [0, 0, 0, 0, 0x80, 0, 1, 2, 3, 4, 5]) = .malformed .chain 1
    ∧ dech ⟨2048, 339⟩ (h14 ++ bytesOf [0, 1, 0, 0, 0, 0]) = .malformed .payload 0 := by decide

/-- As V25, with parameters small enough to write out. -/
theorem witness_DefaultCountCapIsNeverTheTighter :
    ({ maxDatagram := 26, maxDesc := 2 } : Config).wf = true ∧ 2 = (26 - 14) / 6
    ∧ (List.replicate 26 (0xFF : Byte)).length ≤ 26
    ∧ dech ⟨26, 2⟩ (List.replicate 26 0xFF) = .malformed .tooMany 2 := by decide

theorem witness_DechOfEnchRoundTrip :
    1 ≤ cfgSmall.maxDesc ∧ (2 : Half).toNat ≤ (bytesOf [0xAB, 0xCD]).length := by decide

/-- V21. -/
theorem witness_SourceLiteralHasClearMarker :
    (rd32 (bytesOf [0x82, 0x60, 0, 7, 0, 0, 0, 0, 0, 0, 0, 0, 0, 0, 0, 0, 0, 0, 0, 0]) 0).toNat
      = 0x82600000 + (7 : Half).toNat
    ∧ dech ⟨2048, 339⟩ (bytesOf [0x82, 0x60, 0, 7, 0, 0, 0, 0, 0, 0, 0, 0, 0, 0, 0, 0, 0, 0, 0, 0])
      = .ok ⟨0x82600007, 2, 0, 0, 2, 0, 96, 7, 0, 0, 0⟩ [⟨0, 0, 0, 0⟩] 20 := by decide

/-- The four clauses: busy; no geometry; `WIDTH = 1015`; `WIDTH = 1014` (V30, V33, V34). -/
theorem witness_TxframeStartsAPassOrIsRefused :
    pass28.txBusy = true
    ∧ (State.reset.txBusy = false ∧ State.reset.width = 0)
    ∧ (State.reset.txBusy = false ∧ (1015 : BitVec 15) ≠ 0 ∧ (1 : Half) ≠ 0
        ∧ 20 + 2 * (1015 : BitVec 15).toNat > State.reset.cfg.maxDatagram)
    ∧ 20 + 2 * (1014 : BitVec 15).toNat ≤ State.reset.cfg.maxDatagram := by decide

/-- A scanline that is not the last, and the last. -/
theorem witness_TxlineSendsOneScanline :
    (pass28.txBusy = true ∧ pass28.txLine.toNat + 1 ≠ pass28.height.toNat)
    ∧ (pass28Last.txBusy = true ∧ pass28Last.txLine.toNat + 1 = pass28Last.height.toNat) := by decide

theorem witness_EmittedWordRowsAreTxlineSteps :
    (pass28.txBusy = true ∧ pass28.txLine.toNat + 1 ≠ pass28.height.toNat)
    ∧ (pass28Last.txBusy = true ∧ pass28Last.txLine.toNat + 1 = pass28Last.height.toNat) := by decide

/-- Steps of other agents around the first of the two `TXLINE` steps of V28: a locked write, an offered
datagram, a second `TXFRAME`, and the host writing both buffers. -/
def mixed28 : List Event :=
  [Script.wr .ts 7, Script.stepRx d35, Script.stepTx .ok, Script.cmd 1, .bufferWrite .txfb 15 [0xEE],
    .bufferWrite .rxfb 0 [1], Script.rd .txLine]

theorem witness_PassSendsEveryScanlineInOrder :
    pass28.txBusy = true ∧ pass28.txLine = 0 ∧ pass28.height ≠ 0
    ∧ (∀ e ∈ mixed28, e = Script.stepTx .ok ∨ besidePass pass28.cfg e = true)
    ∧ mixed28.count (Script.stepTx .ok) + 1 = pass28.height.toNat := by decide

/-- Failure at scanline 0 and at the last one (V32). -/
theorem witness_FailedPassUsesUpItsSequenceNumbers :
    (pass28.txBusy = true ∧ pass28.txLine = 0)
    ∧ (0 < pass28.height.toNat ∧ besidePass pass28.cfg (Script.rd .txLine) = true
      ∧ [Script.rd .txLine].count (Script.stepTx .ok) = 0)
    ∧ (1 < pass28.height.toNat ∧ (∀ e ∈ mixed28, e = Script.stepTx .ok ∨ besidePass pass28.cfg e = true)
      ∧ mixed28.count (Script.stepTx .ok) = 1) := by decide

/-- What a pass and a cycle do not take as a step of another agent. -/
theorem test_beside_excludes :
    besidePass pass28.cfg (Script.cmd 4) = false ∧ besidePass pass28.cfg .hardReset = false
    ∧ besidePass pass28.cfg (Script.stepTx .fail) = false
    ∧ besideCycle cycle35.cfg (Script.stepRx d35) = false ∧ besideCycle cycle35.cfg Script.stepTmo = false
    ∧ besideCycle cycle35.cfg (.bufferWrite .rxfb 0 [1]) = false
    ∧ besideCycle cycle35.cfg (Script.stepTx .fail) = true := by decide

theorem witness_RxframeStartsACycleOrIsRefused :
    cycle35.rxState ≠ .idle ∧ (State.reset.rxState = .idle ∧ State.reset.height = 0)
    ∧ (pass28.rxState = .idle ∧ pass28.width ≠ 0 ∧ pass28.height ≠ 0) := by decide

theorem witness_RxpktDropsMalformedDatagrams :
    cycle35.rxState = .receiving ∧ offers h14 (.rxpktV1 h14) = true
    ∧ dech cycle35.cfg h14 = .malformed .short 0 ∧ h14.length ≤ 65535 := by decide

theorem witness_RxpktDropsNonMatchingDatagrams :
    ({ cycle35 with ctrl := 1 } : State).ctrl.getLsbD 0 = true ∧ offers d41 (.rxpktV0 d41) = true
    ∧ dech cycle35.cfg d41
      = .ok ⟨0x40600007, 1, 0, 0, 0, 0, 96, 7, 0x1000, 0x11223344, 0⟩ [⟨8, 0, 0, 0⟩] 20
    ∧ (1 : BitVec 2) ≠ 2 ∧ cycle35.rxState = .receiving ∧ cycle35.ctrl.getLsbD 0 = false := by decide

/-- The other clause with validation on: version 2, type 96, inside the geometry. -/
theorem witness_matching_datagram :
    ({ cycle35 with ctrl := 1 } : State).ctrl.getLsbD 0 = true ∧ offers d35 (.rxpktV1 d35) = true
    ∧ dech cycle35.cfg d35
      = .ok ⟨0x8060FFFF, 2, 0, 0, 0, 0, 96, 0xFFFF, 0x1000, 0x11223344, 0⟩ [⟨8, 0, 0, 0⟩] 20
    ∧ (0 : Half).toNat < cycle35.height.toNat
    ∧ (0 : BitVec 15).toNat * 2 + (8 : Half).toNat = 2 * cycle35.width.toNat := by decide

/-- V37 (`LINE = HEIGHT`) and V38 (b) (one byte past the stride), each at the edge. -/
theorem witness_RxpktDropsDatagramsOutsideTheGeometry :
    (dech cycle35.cfg d37
        = .ok ⟨0x80600001, 2, 0, 0, 0, 0, 96, 1, 0x1000, 0x11223344, 0⟩ [⟨8, 2, 0, 0⟩] 20
      ∧ offers d37 (.rxpktV1 d37) = true ∧ cycle35.ctrl.getLsbD 0 = false
      ∧ (2 : Half).toNat ≥ cycle35.height.toNat)
    ∧ (dech cycle35.cfg d38b
        = .ok ⟨0x80600002, 2, 0, 0, 0, 0, 96, 2, 0x1000, 0x11223344, 0⟩ [⟨5, 1, 0, 2⟩] 20
      ∧ offers d38b (.rxpktV1 d38b) = true ∧ (1 : Half).toNat < cycle35.height.toNat
      ∧ (2 : BitVec 15).toNat * 2 + (5 : Half).toNat = 2 * cycle35.width.toNat + 1) := by decide

/-- The header of `d35b`. -/
def hdr35b : Header := ⟨0x80E00000, 2, 0, 0, 0, 1, 96, 0, 0x1000, 0x11223344, 0⟩

/-- The last scanline, and a span that ends exactly at the stride. -/
theorem witness_RxpktAcceptsAndScattersADatagram :
    cycle35.rxState = .receiving ∧ offers d35b (.rxpktV1 d35b) = true
    ∧ acceptedAs cycle35 d35b hdr35b [⟨8, 1, 0, 0⟩] := by
  refine ⟨by decide, by decide, by decide, ?_, ?_⟩
  · rintro ⟨h, _⟩
    exact absurd h (by decide)
  · intro D hD
    rw [List.mem_singleton] at hD
    subst hD
    exact ⟨by decide, by decide⟩

/-- Two descriptors that overlap in scanline 0: four bytes at pixel 0, then four at pixel 1. -/
def dOverlap : List Byte := bytesOf
  [0x80, 0x60, 0, 5, 0, 0, 0x20, 0, 0x11, 0x22, 0x33, 0x44, 0, 0, 0, 4, 0, 0, 0x80, 0, 0, 4, 0, 0, 0, 1,
   0xA0, 0xA1, 0xA2, 0xA3, 0xB0, 0xB1, 0xB2, 0xB3]

/-- A sequence gap (R206) and an overlap (20_memory R84): the hypotheses, and what the rules give. -/
theorem witness_accepted_with_gap_and_overlap :
    acceptedAs { cycle35 with ctrl := 2, seqValid := true, rxSeqExpect := 9 } dOverlap
      ⟨0x80600005, 2, 0, 0, 0, 0, 96, 5, 0x2000, 0x11223344, 0⟩ [⟨4, 0, 1, 0⟩, ⟨4, 0, 0, 1⟩]
    ∧ got (fun t => (t.rxGapCnt, t.errStatus, t.errInfo, t.rxSeqExpect)) (.rxpktV1 dOverlap)
        { cycle35 with ctrl := 2, seqValid := true, rxSeqExpect := 9 } = some (1, 0x400, 0x0005000A, 6)
    ∧ got (fun t => (memGet t.rxfb 1, memGet t.rxfb 2, memGet t.rxfb 5)) (.rxpktV1 dOverlap)
        { cycle35 with ctrl := 2, seqValid := true, rxSeqExpect := 9 }
      = some (some 0xA1, some 0xB0, some 0xB3) := by
  refine ⟨⟨by decide, ?_, ?_⟩, by decide, by decide⟩
  · rintro ⟨h, _⟩
    exact absurd h (by decide)
  · intro D hD
    simp only [List.mem_cons, List.not_mem_nil, or_false] at hD
    rcases hD with rfl | rfl <;> exact ⟨by decide, by decide⟩

/-- The hypotheses `offers d i`, `exec i s = .next t` of the statements about any offered datagram; the
drop counter moves; offset 16 is `FB_BYTES`. -/
theorem witness_offered_datagram :
    ∃ t, exec (.rxpktV1 d37) cycle35 = .next t ∧ offers d37 (.rxpktV1 d37) = true
      ∧ t.rxDropCnt ≠ cycle35.rxDropCnt ∧ fbBytes cycle35 ≤ 16 :=
  ⟨_, rfl, by decide, by decide, by decide⟩

theorem witness_DuplicateDatagramWritesTheSameBytes :
    ∃ t u, exec (.rxpktV1 d35) cycle35 = .next t ∧ t.rxState = .receiving
      ∧ exec (.rxpktV1 d35) t = .next u ∧ offers d35 (.rxpktV1 d35) = true :=
  ⟨_, _, rfl, by decide, rfl, by decide⟩

theorem witness_RxtmoEndsTheCycle :
    ({ cycle35 with rxTimeout := 1 } : State).rxState = .receiving
    ∧ ({ cycle35 with rxTimeout := 1 } : State).rxTimeout ≠ 0 := by decide

theorem witness_RxrelReleasesACompletedFrame :
    ({ cycle35 with rxState := .complete } : State).rxState = .complete
    ∧ cycle35.rxState ≠ .complete := by decide

theorem witness_EnginesWithoutAnEnabledStepWait :
    State.reset.txBusy = false ∧ (pass28.rxState ≠ .receiving ∧ offers d35 (.rxpktV1 d35) = true)
    ∧ cycle35.rxTimeout = 0 := by decide

/-- During a pass, on the scanline that comes next: another sequence number, and the other marker. -/
theorem witness_emitted_word_not_next :
    (pass28.txBusy = true ∧ (0xFFFE : Half) ≠ pass28.seq)
    ∧ (pass28.txBusy = true ∧ pass28.txLine.toNat + 1 ≠ pass28.height.toNat)
    ∧ (pass28Last.txBusy = true ∧ pass28Last.txLine.toNat + 1 = pass28Last.height.toNat) := by decide

/-- Every step of the table answers a next state, so the hypothesis `exec i s = .next t` of the
whole-machine rules is met by any `i` and `s`. -/
theorem witness_exec_next (i : Instr) (s : State) : exec i s = .next (after i s) := exec_eq_after i s

/-- Every transition of the receive state is taken by some step (R216). -/
theorem witness_ReceiveStateTransitions :
    got State.rxState .rxframe { cycle35 with rxState := .idle } = some .receiving
    ∧ got State.rxState (.rxpktV1 d35b) cycle35 = some .complete
    ∧ got State.rxState .rxtmo { cycle35 with rxTimeout := 1 } = some .idle
    ∧ got State.rxState .rxrel { cycle35 with rxState := .complete } = some .idle
    ∧ got State.rxState (.regwr 0 4) cycle35 = some .idle := by decide

/-- V28 before its `TXFRAME`, with a datagram bound that its packets just meet. -/
def frame28 : State :=
  { pass28 with txBusy := false, cfg := { maxDatagram := 28, maxDesc := 1 } }

/-- Both halves, with other steps between: the pass hands over the packets of V28, and they come back in V35's
cycle. -/
theorem witness_FrameRoundTrip :
    frame28.txBusy = false ∧ frame28.width ≠ 0 ∧ frame28.height ≠ 0
    ∧ 20 + 2 * frame28.width.toNat = frame28.cfg.maxDatagram
    ∧ (∀ e ∈ [Script.stepTx .ok, Script.rd .txLine],
        e = Script.stepTx .ok ∨ besidePass frame28.cfg e = true)
    ∧ [Script.stepTx .ok, Script.rd .txLine].count (Script.stepTx .ok) + 1 = frame28.height.toNat
    ∧ (nextOf (runAll [Script.cmd 1, Script.stepTx .ok, Script.rd .txLine, Script.stepTx .ok] frame28)).map
        sentPackets = some ([d35, d35b].map fun p => (p, .ok))
    ∧ frame28.rxState = .idle ∧ 1 ≤ frame28.cfg.maxDesc
    ∧ (∀ e ∈ [Script.stepRx d35, Script.rd .rxStatus],
        (offeredBy e).isSome = true ∨ besideCycle frame28.cfg e = true)
    ∧ [Script.stepRx d35, Script.rd .rxStatus].filterMap offeredBy ++ [d35b] = [d35, d35b]
    ∧ frame28.seqValid = false := by decide

/-- An offset between two registers, and the first past the last. -/
theorem witness_RegrdReturnsTheRegister :
    (0x01 : Word).toNat % 4 ≠ 0 ∧ (0x6C : Word).toNat > 0x68 := by decide

theorem witness_RegwrStoresTheImplementedBits :
    State.reset.txBusy = false ∧ State.reset.rxState ≠ .receiving := by decide

theorem witness_RegwrToALockedRegisterIsIgnored :
    (pass28.txBusy = true ∧ 0x1C ∈ [0x08, 0x0C, 0x10, 0x14, 0x18, 0x1C])
    ∧ (cycle35.rxState = .receiving ∧ 0x04 ∈ [0x08, 0x0C, 0x20, 0x04]) := by decide

theorem witness_RegwrElsewhereDoesNothing :
    (0x06 : Word).toNat % 4 ≠ 0 ∧ (0x6C : Word).toNat > 0x68
    ∧ (0x24 ≤ (0x24 : Word).toNat ∧ (0x24 : Word).toNat ≤ 0x58)
    ∧ (0x24 ≤ (0x58 : Word).toNat ∧ (0x58 : Word).toNat ≤ 0x58) ∧ (0x60 : Word).toNat = 0x60 := by decide

/-- V55: only the low byte of the write counts; the codes at the edges. -/
theorem witness_WriteToCmdRunsTheCommand :
    (0x100 : Word).toNat % 256 = 0 ∧ (0xABCDEF01 : Word).toNat % 256 = 1 ∧ (2 : Word).toNat % 256 = 2
    ∧ (3 : Word).toNat % 256 = 3 ∧ (4 : Word).toNat % 256 = 4 ∧ 5 ≤ (5 : Word).toNat % 256
    ∧ 5 ≤ (0x1FF : Word).toNat % 256 := by decide

/-- A set sticky bit that a step clears, and one that a step leaves (V56). -/
theorem witness_StickyBitsAreClearedOnlyByTheHost :
    ({ State.reset with errStatus := 0x80 } : State).errStatus.getLsbD 7 = true
    ∧ got State.errStatus (.regwr 0x5C 0x80) { State.reset with errStatus := 0x80 } = some 0
    ∧ got State.errStatus (.regwr 0x5C 0x40) { State.reset with errStatus := 0x80 } = some 0x80 := by decide

/-- A completion bit set by each engine, and one that the host clears. -/
theorem witness_CompletionBitsFollowTheEngines :
    got State.irqStatus (.txline .ok) pass28Last = some 1
    ∧ got State.irqStatus (.rxpktV1 d35b) cycle35 = some 2
    ∧ got State.irqStatus (.regwr 0x64 1) { State.reset with irqStatus := 3 } = some 2 := by decide

/-- `SEQ` moved by each of the three causes. -/
theorem witness_OnlyTheEncoderAndTheHostChangeSeq :
    got State.seq (.txline .ok) pass28 = some 0 ∧ pass28.seq = 0xFFFF
    ∧ got State.seq (.regwr 0x1C 5) State.reset = some 5
    ∧ got State.seq .softrst pass28 = some 0 := by decide

theorem witness_PassOperandsAreStable :
    pass28.txBusy = true ∧ carriesCommand 4 (.regwr 0x14 7) = false
    ∧ carriesCommand 4 (.regwr 0x00 4) = true ∧ carriesCommand 4 .softrst = true := by decide

theorem witness_StepRunsTheDecodedStep :
    ({ State.reset with agenda := [.frame [0, 2], .hardReset] } : State).agenda
      = .frame [0, 2] :: [.hardReset]
    ∧ decode [0, 2] = .instr .rxframe ∧ wellFormed State.reset.cfg .rxframe = true := by decide

/-- The last two bytes of the largest geometry. -/
theorem witness_HostReachesTheBuffers :
    ({ State.reset with agenda := [.bufferWrite .rxfb 4294770688 [1, 2]] } : State).agenda
      = .bufferWrite .rxfb 4294770688 [1, 2] :: []
    ∧ 4294770688 + ([1, 2] : List Byte).length = 32767 * 65535 * 2
    ∧ ({ State.reset with agenda := [.bufferRead .txfb 4294770688 2] } : State).agenda
      = .bufferRead .txfb 4294770688 2 :: []
    ∧ 4294770688 + 2 = 32767 * 65535 * 2 := by decide

theorem witness_ResetInputClearsEveryRegister :
    ({ pass28 with agenda := [.hardReset] } : State).agenda = .hardReset :: [] := by decide

/-- A state of a cycle that meets the invariant, and a step from it. -/
theorem witness_EveryStepKeepsTheInvariant :
    Inv cycle35 ∧ ∃ t, step { cycle35 with agenda := [.frame (4 :: d35b)] } = .next t
      ∧ t.rxState = .complete := by
  refine ⟨?_, _, rfl, by decide⟩
  constructor <;> decide

end Sys2Proof.Tests
end

section
/-! SUPPORT. What the decoder answers is a step of the row it names: only the length of a datagram is left
for `wellFormed` to check (00_scope R11, 30_encoding R109, R120). -/

namespace Sys2Proof

/-! ## `wellFormed` as a row check and a length bound -/

/-- The part of `wellFormed` that no parameter enters: an offered datagram is in the row its first word
matches (R109), and a reserved code is none of the five commands (R120). -/
def rowFits : Instr → Bool
  | .rxpktV1 d => datagramMatchesV1 d
  | .rxpktV0 d => !datagramMatchesV1 d
  | .cmdReserved code => decide (5 ≤ code.toNat)
  | _ => true

/-- The step carries the datagram `d`. -/
def CarriesDatagram (i : Instr) (d : List Byte) : Prop :=
  i = .dech d ∨ i = .rxpktV1 d ∨ i = .rxpktV0 d

@[simp] theorem carriesDatagram_dech (d d' : List Byte) : CarriesDatagram (.dech d) d' ↔ d = d' := by
  simp [CarriesDatagram]

@[simp] theorem carriesDatagram_rxpktV1 (d d' : List Byte) :
    CarriesDatagram (.rxpktV1 d) d' ↔ d = d' := by
  simp [CarriesDatagram]

@[simp] theorem carriesDatagram_rxpktV0 (d d' : List Byte) :
    CarriesDatagram (.rxpktV0 d) d' ↔ d = d' := by
  simp [CarriesDatagram]

theorem wellFormed_iff (cfg : Config) (i : Instr) :
    wellFormed cfg i = true ↔
      rowFits i = true ∧ ∀ d, CarriesDatagram i d → d.length ≤ cfg.maxDatagram := by
  cases i with
  | dech d | rxpktV1 d | rxpktV0 d => simp [wellFormed, rowFits, datagramLengthOk, and_comm]
  | _ => simp [wellFormed, rowFits, CarriesDatagram]

/-! ## Each part of the decoder answers a step that fits its row -/

/-- A step the decoder answers fits its row; a rejected frame claims nothing. -/
def Decoded.fits : Decoded → Bool
  | .instr i => rowFits i
  | .reject _ => true

/-- The codes 0 to 4 are commands (R234), so `CMD.RESERVED` is left with 5 and above. -/
theorem rowFits_decodeCommand (code : Byte) : rowFits (decodeCommand code) = true := by
  unfold decodeCommand
  split
  case h_6 hnop htxframe hrxframe hrxrel hsoftrst =>
    have hcode : 5 ≤ code.toNat := by
      simp only [imp_false] at hnop htxframe hrxframe hrxrel hsoftrst
      omega
    exact decide_eq_true hcode
  all_goals rfl

theorem rowFits_decodeOffer (d : List Byte) : rowFits (decodeOffer d) = true := by
  unfold decodeOffer
  split
  case isTrue hmatch => exact hmatch
  case isFalse hmatch => simpa [rowFits] using hmatch

theorem rowFits_decodeDesc (D : Descriptor) : rowFits (decodeDesc D) = true := by
  unfold decodeDesc
  split <;> rfl

theorem fits_decodeHeader (h : List Byte) : (decodeHeader h).fits = true := by
  unfold decodeHeader
  split <;> rfl

theorem fits_decodeEmitted (answer : SinkAnswer) (w : Word) :
    (decodeEmitted answer w).fits = true := by
  unfold decodeEmitted
  split
  · rfl
  · split <;> rfl

/-- The ports `cmd`, `src`, `desc`, `ench` and `pkt` leave the step to a decoder of their own, and its lemma
is cited; every other arm of `decodeAt` rejects the frame or answers a step that fits whatever its operands. -/
theorem fits_decodeAt (port : Port) (b : List Byte) : (decodeAt port b).fits = true := by
  unfold decodeAt
  split
  case h_1 code => -- `cmd`
    exact rowFits_decodeCommand code
  case h_7 => -- `tx`
    split <;> rfl
  case h_9 => -- `src`
    exact rowFits_decodeOffer _
  case h_16 => -- `desc`
    exact rowFits_decodeDesc _
  case h_18 => -- `ench`
    split
    · exact fits_decodeHeader _
    · rfl
  case h_20 => -- `pkt`
    split
    · exact fits_decodeEmitted _ _
    · rfl
  all_goals rfl

theorem fits_decode (b : List Byte) : (decode b).fits = true := by
  unfold decode
  split
  · rfl
  · split
    · exact fits_decodeAt _ _
    · rfl

theorem rowFits_of_decode_eq_instr {b : List Byte} {i : Instr} (h : decode b = .instr i) :
    rowFits i = true := by
  have hfits := fits_decode b
  rwa [h] at hfits

/-- Settles O3: a decoded step fits its row, so of `wellFormed` only the length bound is left. -/
theorem decodedStepsAreWellFormed : Obligations.DecodedStepsAreWellFormed := by
  intro cfg b i h
  exact (wellFormed_iff cfg i).trans (and_iff_right (rowFits_of_decode_eq_instr h))

end Sys2Proof
end

section
/-! SUPPORT. The registers of 10_state: the interrupt output (R43), the state after reset (R47), the lock rule
(R23), the sticky bits of `ERR_STATUS` (R41) and the owners of `SEQ` (R29). -/

namespace Sys2Proof.Machine

/-! ## The interrupt output (R43) -/

/-- The two implemented bits of an interrupt register decide whether it is zero. -/
theorem ne_zero_iff_bit (q : BitVec 2) :
    q ≠ 0 ↔ q.getLsbD 0 = true ∨ q.getLsbD 1 = true := by
  revert q
  decide

/-- Settles O47: a word of two bits is not zero exactly when one of them is set, and a bit of the conjunction
is set exactly when it is pending and enabled. -/
theorem interruptOutputIsPendingAndEnabled : Obligations.InterruptOutputIsPendingAndEnabled := by
  intro s
  rw [irqOutput, bne_iff_ne, ne_zero_iff_bit]
  simp only [BitVec.getLsbD_and, Bool.and_eq_true]

/-! ## The state after reset (R47) -/

/-- Every register reads 0 once the registers have their reset values (R236, R290). -/
@[simp] theorem regValue_resetRegs (r : Reg) (s : State) : regValue r (resetRegs s) = 0 := by
  cases r with
  | txStatus => exact show txStatusWord State.reset = 0 by decide
  | rxStatus => exact show rxStatusWord State.reset = 0 by decide
  | _ => rfl

/-- The state after reset is its own register reset. -/
theorem resetRegs_reset : resetRegs State.reset = State.reset := rfl

/-- Settles O57: the registers are those a register reset leaves, and both buffers are empty. -/
theorem resetStateIsAllZero : Obligations.ResetStateIsAllZero := by
  refine ⟨fun r _ => ?_, rfl, rfl, fun a => ⟨memGet_nil a, memGet_nil a⟩⟩
  rw [← resetRegs_reset, regValue_resetRegs]

/-- Settles O58: the parts on a pass, a cycle, a completed frame and a latched header ask nothing of the reset
state, where none is there; each other part is a fact about zeros, empty buffers or the parameters. -/
theorem invariantHoldsAtReset : Obligations.InvariantHoldsAtReset where
  params := by decide
  txCanonical := rfl
  rxCanonical := rfl
  txInside := rfl
  rxInside := rfl
  pass hbusy := nomatch hbusy
  cycle hreceiving := nomatch hreceiving
  completed hcomplete := nomatch hcomplete
  reservedErr := by decide
  recorded := by decide
  noSeqYet _ := rfl
  latched hvalid := nomatch hvalid

/-! ## A write to a locked register (R23) -/

/-- The bytes of `ERR_INFO` as one number (R42, R252). -/
theorem errInfoWord_eq (code sub : BitVec 8) (info : Half) :
    errInfoWord code sub info = errInfoOf info.toNat sub.toNat code.toNat := by
  apply BitVec.eq_of_toNat_eq
  have hlow : (sub ++ code).toNat = sub.toNat * 256 + code.toNat := by
    rw [BitVec.toNat_append, ← Nat.shiftLeft_add_eq_or_of_lt code.isLt, Nat.shiftLeft_eq]
  have hword : (errInfoWord code sub info).toNat = info.toNat * 65536 + (sub ++ code).toNat := by
    rw [errInfoWord, BitVec.toNat_append, ← Nat.shiftLeft_add_eq_or_of_lt (sub ++ code).isLt,
      Nat.shiftLeft_eq]
  rw [hword, hlow, errInfoOf, BitVec.toNat_ofNat]
  have := info.isLt
  have := sub.isLt
  have := code.isLt
  omega

/-- Each register is found at its own offset (R40). -/
@[simp] theorem regAt_regOffset (r : Reg) : regAt (regOffset r) = some r := by
  cases r <;> rfl

/-- Every offset of the map fits the 16 bits of `INFO` (R40, R42). -/
theorem regOffset_toNat_lt (r : Reg) : (regOffset r).toNat < 65536 := by
  cases r <;> decide

/-- The registers a pass reads (R23). -/
def passRegs : List Reg := [.width, .height, .ssrc, .ts, .tsTick, .seq]

/-- The registers a cycle reads (R23). -/
def cycleRegs : List Reg := [.width, .height, .rxTimeout, .ctrl]

theorem lockedReg_of_busy {r : Reg} {s : State} (hb : s.txBusy = true) (hr : r ∈ passRegs) :
    regAccess r = .rw ∧ lockedReg r s = true := by
  simp only [passRegs, List.mem_cons, List.not_mem_nil, or_false] at hr
  rcases hr with rfl | rfl | rfl | rfl | rfl | rfl <;> simp [regAccess, lockedReg, hb]

theorem lockedReg_of_receiving {r : Reg} {s : State} (hr : s.rxState = .receiving)
    (hreg : r ∈ cycleRegs) : regAccess r = .rw ∧ lockedReg r s = true := by
  simp only [cycleRegs, List.mem_cons, List.not_mem_nil, or_false] at hreg
  rcases hreg with rfl | rfl | rfl | rfl <;> simp [regAccess, lockedReg, hr]

/-- The register an offset of the statement names, in the lists of R23. -/
theorem exists_lockedReg_at {s : State} {off : Nat}
    (h : (s.txBusy = true ∧ off ∈ [0x08, 0x0C, 0x10, 0x14, 0x18, 0x1C])
      ∨ (s.rxState = .receiving ∧ off ∈ [0x08, 0x0C, 0x20, 0x04])) :
    ∃ r, (regOffset r).toNat = off ∧ regAccess r = .rw ∧ lockedReg r s = true := by
  rcases h with ⟨hb, hoff⟩ | ⟨hrx, hoff⟩
  · have hmem : off ∈ passRegs.map fun r => (regOffset r).toNat := hoff
    obtain ⟨r, hr, rfl⟩ := List.mem_map.mp hmem
    exact ⟨r, rfl, lockedReg_of_busy hb hr⟩
  · have hmem : off ∈ cycleRegs.map fun r => (regOffset r).toNat := hoff
    obtain ⟨r, hr, rfl⟩ := List.mem_map.mp hmem
    exact ⟨r, rfl, lockedReg_of_receiving hrx hr⟩

theorem regwr_of_locked {r : Reg} {s : State} (hrw : regAccess r = .rw) (hl : lockedReg r s = true)
    (v : Word) :
    regwr (regOffset r) v s = raise .locked 0 ((regOffset r).setWidth 16) s := by
  simp [regwr, writeReg, hrw, hl]

/-- Settles O39: each offset of the lists is that of a locked register, whose write only raises `LOCKED`; the
offset fits `INFO`. -/
theorem regwrToALockedRegisterIsIgnored : Obligations.RegwrToALockedRegisterIsIgnored := by
  intro s v off h
  obtain ⟨r, rfl, hrw, hl⟩ := exists_lockedReg_at h
  have hinfo : ((regOffset r).setWidth 16).toNat = (regOffset r).toNat := by
    rw [BitVec.toNat_setWidth]
    exact Nat.mod_eq_of_lt (regOffset_toNat_lt r)
  calc exec (.regwr (BitVec.ofNat 32 (regOffset r).toNat) v) s
      = .next (regwr (regOffset r) v s) := by rw [exec_eq_after, BitVec.ofNat_toNat, BitVec.setWidth_eq]; rfl
    _ = .next (raise .locked 0 ((regOffset r).setWidth 16) s) := by rw [regwr_of_locked hrw hl]
    _ = _ := by rw [raise, errInfoWord_eq, hinfo]; rfl

/-! ## The sticky bits of `ERR_STATUS` (R41) -/

/-- Every bit of `ERR_STATUS` that is set in `s` is set in `t`. -/
def KeepsErrBits (s t : State) : Prop :=
  ∀ k, s.errStatus.getLsbD k = true → t.errStatus.getLsbD k = true

theorem KeepsErrBits.of_eq {s t : State} (h : t.errStatus = s.errStatus) : KeepsErrBits s t :=
  fun k hk => by rwa [h]

/-- Raising an exception sets a bit and clears none (R252). -/
theorem KeepsErrBits.raise {s t : State} {e : Exc} {sub : BitVec 8} {info : Half} (h : KeepsErrBits s t) :
    KeepsErrBits s (raise e sub info t) := fun k hk => by simp [h k hk]

theorem keepsErrBits_txline (a : SinkAnswer) (s : State) : KeepsErrBits s (txline a s) := by
  rcases txline_cases a s with ⟨-, e⟩ | ⟨-, -, e⟩ | ⟨-, -, -, e⟩ | ⟨-, -, -, e⟩ <;> rw [e]
  · exact .of_eq rfl
  · exact .raise (.of_eq rfl)
  · exact .of_eq rfl
  · exact .of_eq rfl

/-- An accepted datagram raises at most `SEQ_GAP` (R206). -/
theorem keepsErrBits_acceptDatagram (d : List Byte) (hdr : Header) (descs : List Descriptor) (payoff : Nat)
    (s : State) : KeepsErrBits s (acceptDatagram d hdr descs payoff s) := by
  intro k hk
  simp only [acceptDatagram, completeOn_errStatus, countAccepted_errStatus, latchHeader_errStatus,
    trackSeq_errStatus]
  split
  · simp [hk]
  · exact hk

theorem keepsErrBits_rxpkt (d : List Byte) (s : State) : KeepsErrBits s (rxpkt d s) := by
  rcases rxpkt_cases d s with ⟨-, e⟩ | ⟨-, r, idx, e⟩ | ⟨-, hdr, descs, payoff, -, -, e⟩
    | ⟨-, hdr, descs, payoff, -, -, -, e⟩ <;> rw [e]
  · exact .of_eq rfl
  · exact .raise (t := drop r s) (.of_eq rfl)
  · exact .raise (.of_eq rfl)
  · exact keepsErrBits_acceptDatagram d hdr descs payoff s

theorem keepsErrBits_rxtmo (s : State) : KeepsErrBits s (rxtmo s) := by
  rcases rxtmo_cases s with e | ⟨-, -, e⟩ <;> rw [e]
  · exact .of_eq rfl
  · exact .raise (.of_eq rfl)

/-- Of the commands only `SOFTRST` clears a sticky bit. -/
theorem keepsErrBits_command {c : Byte} (hc : c ≠ 4) (s : State) : KeepsErrBits s (command c s) := by
  rcases command_cases c s with ⟨-, e⟩ | ⟨-, e⟩ | ⟨-, e⟩ | ⟨-, e⟩ | ⟨h4, -⟩ | ⟨-, e⟩
  · rw [e]; exact .of_eq rfl
  · rw [e]
    rcases txframe_cases s with ⟨x, sub, e⟩ | ⟨-, -, -, -, e⟩ <;> rw [e]
    · exact .raise (.of_eq rfl)
    · exact .of_eq rfl
  · rw [e]
    rcases rxframe_cases s with ⟨x, sub, e⟩ | ⟨-, -, -, e⟩ <;> rw [e]
    · exact .raise (.of_eq rfl)
    · exact .of_eq rfl
  · rw [e]
    rcases rxrel_cases s with ⟨-, e⟩ | ⟨-, e⟩ <;> rw [e]
    · exact .of_eq rfl
    · exact .raise (.of_eq rfl)
  · exact absurd h4 hc
  · rw [e]; exact .raise (.of_eq rfl)

@[simp] theorem storeReg_errStatus (r : Reg) (v : Word) (s : State) :
    (storeReg r v s).errStatus = s.errStatus := by
  cases r <;> rfl

/-- A `W1C` write clears a sticky bit only where it writes a 1 to `ERR_STATUS` (R233). -/
theorem clearReg_keeps_errBit (r : Reg) (v : Word) {s : State} {k : Nat}
    (hk : s.errStatus.getLsbD k = true) :
    (clearReg r v s).errStatus.getLsbD k = true ∨ (r = .errStatus ∧ v.getLsbD k = true) := by
  cases r with
  | errStatus =>
    have hk32 : k < 32 := BitVec.lt_of_getLsbD hk
    cases hv : v.getLsbD k with
    | true => exact .inr ⟨rfl, rfl⟩
    | false =>
      refine .inl ?_
      simp only [clearReg, BitVec.getLsbD_and, BitVec.getLsbD_not, hk, hk32, hv]
      rfl
  | _ => exact .inl hk

/-- Settles O48: every operation but `SOFTRST` and a write to `ERR_STATUS` leaves the sticky bits alone or
raises an exception, which only sets one. -/
theorem stickyBitsAreClearedOnlyByTheHost : Obligations.StickyBitsAreClearedOnlyByTheHost := by
  intro i s t k h hk
  rw [after_of_exec h]
  rcases after_cases i s with e | ⟨o, e⟩ | ⟨line, last, ts, ssrc, n, o, -, e⟩ | ⟨a, e, -⟩ | ⟨d, -, e⟩
    | ⟨c, hc, e⟩ | ⟨code, -, e⟩ | ⟨-, e⟩ | ⟨r, v, -, -, -, e⟩ | ⟨r, v, -, -, -, e⟩ | ⟨r, v, rfl, -, e⟩ <;>
    rw [e]
  · exact .inl hk
  · exact .inl hk
  · exact .inl hk
  · exact .inl (keepsErrBits_txline a s k hk)
  · exact .inl (keepsErrBits_rxpkt d s k hk)
  · by_cases h4 : c = 4
    · exact .inr (.inl (by simp [carriesCommand_of_commandOf hc, h4]))
    · exact .inl (keepsErrBits_command h4 s k hk)
  · exact .inl (KeepsErrBits.raise (.of_eq rfl) k hk)
  · exact .inl (keepsErrBits_rxtmo s k hk)
  · exact .inl (KeepsErrBits.raise (.of_eq rfl) k hk)
  · exact .inl (by rwa [storeReg_errStatus])
  · rcases clearReg_keeps_errBit r v hk with hkept | ⟨rfl, hv⟩
    · exact .inl hkept
    · exact .inr (.inr ⟨v, rfl, hv⟩)

/-! ## The owners of `SEQ` (R29, R147) -/

theorem rxpkt_seq (d : List Byte) (s : State) : (rxpkt d s).seq = s.seq := (keepsPass_rxpkt d s).1.seq

theorem rxtmo_seq (s : State) : (rxtmo s).seq = s.seq := by
  rcases rxtmo_cases s with e | ⟨-, -, e⟩
  · rw [e]
  · rw [e, raise_seq]

theorem clearReg_seq (r : Reg) (v : Word) (s : State) : (clearReg r v s).seq = s.seq := by
  cases r <;> rfl

/-- A scanline that is sent uses up one sequence number, whatever the sink answers. -/
theorem txline_seq (a : SinkAnswer) (s : State) :
    (txline a s).seq = s.seq ∨ (txline a s).seq = s.seq + 1 := by
  rcases txline_cases a s with ⟨-, e⟩ | ⟨-, -, e⟩ | ⟨-, -, -, e⟩ | ⟨-, -, -, e⟩ <;> rw [e]
  · exact .inl rfl
  · exact .inr rfl
  · exact .inr rfl
  · exact .inr rfl

/-- Of the commands only `SOFTRST` changes `SEQ`. -/
theorem command_seq {c : Byte} (hc : c ≠ 4) (s : State) : (command c s).seq = s.seq := by
  rcases command_cases c s with ⟨-, e⟩ | ⟨-, e⟩ | ⟨-, e⟩ | ⟨-, e⟩ | ⟨h4, -⟩ | ⟨-, e⟩
  · rw [e]; rfl
  · rw [e]
    rcases txframe_cases s with ⟨x, sub, e⟩ | ⟨-, -, -, -, e⟩
    · rw [e, raise_seq]
    · rw [e]
  · rw [e]
    rcases rxframe_cases s with ⟨x, sub, e⟩ | ⟨-, -, -, e⟩
    · rw [e, raise_seq]
    · rw [e]
  · rw [e]
    rcases rxrel_cases s with ⟨-, e⟩ | ⟨-, e⟩
    · rw [e]
    · rw [e, raise_seq]
  · exact absurd h4 hc
  · rw [e]; rfl

/-- An unlocked write changes `SEQ` only at `SEQ`'s own offset, where it stores the low 16 bits (R232). -/
theorem storeReg_seq (r : Reg) (v : Word) (s : State) :
    (storeReg r v s).seq = s.seq ∨ (r = .seq ∧ (storeReg r v s).seq = v.setWidth 16) := by
  cases r with
  | seq => exact .inr ⟨rfl, rfl⟩
  | _ => exact .inl rfl

/-- Settles O50: of the operations a step can do, only those that build a header, an unlocked write to `SEQ`
and `SOFTRST` change `SEQ`. -/
theorem onlyTheEncoderAndTheHostChangeSeq : Obligations.OnlyTheEncoderAndTheHostChangeSeq := by
  intro i s t h hne
  rw [after_of_exec h] at hne ⊢
  rcases after_cases i s with e | ⟨o, e⟩ | ⟨line, last, ts, ssrc, n, o, hi, e⟩ | ⟨a, e, hi⟩ | ⟨d, -, e⟩
    | ⟨c, hc, e⟩ | ⟨code, -, e⟩ | ⟨-, e⟩ | ⟨r, v, -, -, -, e⟩ | ⟨r, v, rfl, -, hl, e⟩ | ⟨r, v, -, -, e⟩ <;>
    rw [e] at hne ⊢
  · exact absurd rfl hne
  · exact absurd rfl hne
  · exact .inl ⟨rfl, .inl ⟨line, last, ts, ssrc, n, hi⟩⟩
  · refine .inl ⟨(txline_seq a s).resolve_left hne, .inr ?_⟩
    rcases hi with hi | ⟨q, hi⟩ | ⟨q, hi⟩
    · exact .inl ⟨a, hi⟩
    · exact .inr (.inl ⟨q, a, hi⟩)
    · exact .inr (.inr ⟨q, a, hi⟩)
  · exact absurd (rxpkt_seq d s) hne
  · have h4 : c = 4 := by_contra fun h4 => hne (command_seq h4 s)
    subst h4
    exact .inr (.inr ⟨carriesCommand_of_commandOf hc 4, rfl⟩)
  · exact absurd rfl hne
  · exact absurd (rxtmo_seq s) hne
  · exact absurd rfl hne
  · obtain ⟨rfl, hv⟩ := (storeReg_seq r v s).resolve_left hne
    exact .inr (.inl ⟨hl, v, rfl, by rw [hv, BitVec.ofNat_toNat]⟩)
  · exact absurd (clearReg_seq r v s) hne

end Sys2Proof.Machine
end

section
/-! SUPPORT. The memory of 20_memory: the step that the agenda's head decodes to (R87), the host's accesses to
the frame buffers (R70, R238), the owners of the frame buffers (R70, R74), the bound of the scatter write (R75,
R83) and a datagram offered twice (R81). -/

namespace Sys2Proof.Machine

/-! ## The head of the agenda (R87) -/

theorem step_of_agenda {s : State} {e : Event} {rest : List Event} (h : s.agenda = e :: rest) :
    step s = runEvent e { s with agenda := rest } := by
  unfold step
  rw [h]

theorem runEvent_frame {s : State} {b : List Byte} {i : Instr} (hd : decode b = .instr i)
    (hw : wellFormed s.cfg i = true) : runEvent (.frame b) s = exec i s := by
  simp only [runEvent, hd, hw, if_true]

/-- Settles O54: the step runs the head of the agenda, and a frame runs the step it decodes to. -/
theorem stepRunsTheDecodedStep : Obligations.StepRunsTheDecodedStep := by
  intro s b rest i ha hd hw
  rw [step_of_agenda ha]
  exact runEvent_frame hd hw

/-! ## The host's accesses to the buffers (R70, R238) -/

@[simp] theorem buffer_agenda (sp : Space) (s : State) (rest : List Event) :
    buffer sp { s with agenda := rest } = buffer sp s := by
  cases sp <;> rfl

theorem hostWrite_inside (sp : Space) {a : Nat} {bytes : List Byte} (s : State)
    (h : a + bytes.length ≤ largestFbBytes) :
    hostWrite sp a bytes s = .next (setBuffer sp (memWrite (buffer sp s) a bytes) s) :=
  if_pos (decide_eq_true h)

theorem hostRead_inside (sp : Space) {a n : Nat} (s : State) (h : a + n ≤ largestFbBytes) :
    hostRead sp a n s
      = .next (handOut (.bufferBytes (memRead (buffer sp s) n a s.draws).1)
          { s with draws := (memRead (buffer sp s) n a s.draws).2 }) :=
  if_pos (decide_eq_true h)

/-- Settles O55: inside the largest geometry a host write is a `MemWrite` to the buffer and a host read a
`MemRead` of it, handed out. -/
theorem hostReachesTheBuffers : Obligations.HostReachesTheBuffers := by
  intro s rest sp a n bytes
  constructor
  · intro ha hin
    refine ⟨memWrite (buffer sp s) a bytes, ?_, memGet_memWrite bytes (buffer sp s) a⟩
    rw [step_of_agenda ha, runEvent, hostWrite_inside sp _ hin, buffer_agenda]
  · intro ha hin
    refine ⟨(memRead (buffer sp s) n a s.draws).1, (memRead (buffer sp s) n a s.draws).2, ?_,
      memRead_length _ _ _ _, fun j b => memRead_written _ _ _ _ j b⟩
    rw [step_of_agenda ha, runEvent, hostRead_inside sp _ hin, buffer_agenda]
    rfl

/-! ## When a datagram is accepted (42_reassembler R203) -/

/-- The check on version and type finds what the statements call a rejection by validation (R199, R200). -/
theorem nonMatching_iff (hdr : Header) (s : State) :
    nonMatching hdr s = true ↔ rejectedByValidation s hdr := by
  simp [nonMatching, rejectedByValidation, validateOn, rtpVersion, rtpPayloadType]

/-- A datagram is accepted exactly when it passes the three checks of R198. -/
theorem acceptedAs_iff (s : State) (d : List Byte) (hdr : Header) (descs : List Descriptor) :
    acceptedAs s d hdr descs ↔
      dech s.cfg d = .ok hdr descs (payloadOffset descs) ∧ nonMatching hdr s = false
        ∧ geometryFault (stride s) s.height.toNat descs 0 = none := by
  rw [acceptedAs, ← nonMatching_iff, Bool.not_eq_true, geometryFault_none]
  rfl

/-- `RXFB` stays unless the step is in Receiving and accepts its datagram (R194, R203). -/
theorem rxpkt_rxfb_cases (d : List Byte) (s : State) :
    (rxpkt d s).rxfb = s.rxfb
    ∨ (s.rxState = .receiving ∧ ∃ hdr descs, acceptedAs s d hdr descs) := by
  rcases rxpkt_cases d s with ⟨-, e⟩ | ⟨-, r, idx, e⟩ | ⟨-, hdr, descs, payoff, -, -, e⟩
    | ⟨hr, hdr, descs, payoff, hd, hn, hg, -⟩
  · exact .inl (by rw [e])
  · exact .inl (by rw [e, dropMalformed_rxfb])
  · exact .inl (by rw [e, raise_rxfb, drop_rxfb])
  · obtain ⟨-, -, -, -, rfl⟩ := dech_ok hd
    exact .inr ⟨hr, hdr, descs, (acceptedAs_iff s d hdr descs).mpr ⟨hd, hn, hg⟩⟩

theorem rxpkt_of_acceptedAs {d : List Byte} {s : State} {hdr : Header} {descs : List Descriptor}
    (hr : s.rxState = .receiving) (h : acceptedAs s d hdr descs) :
    rxpkt d s = acceptDatagram d hdr descs (payloadOffset descs) s := by
  obtain ⟨hd, hn, hg⟩ := (acceptedAs_iff s d hdr descs).mp h
  simp [rxpkt, receiveDatagram, hr, hd, hn, hg]

@[simp] theorem acceptDatagram_rxfb (d : List Byte) (hdr : Header) (descs : List Descriptor) (payoff : Nat)
    (s : State) :
    (acceptDatagram d hdr descs payoff s).rxfb = scatter (stride s) d descs payoff s.rxfb := by
  simp [acceptDatagram]

/-! ## The owners of the buffers (R70, R74) -/

/-- Both buffers, the parameters and the agenda are as they were. -/
structure KeepsBuffers (s t : State) : Prop where
  txfb : t.txfb = s.txfb
  cfg : t.cfg = s.cfg
  agenda : t.agenda = s.agenda
  rxfb : t.rxfb = s.rxfb

theorem KeepsBuffers.refl (s : State) : KeepsBuffers s s := ⟨rfl, rfl, rfl, rfl⟩

theorem keepsBuffers_raise (e : Exc) (sub : BitVec 8) (info : Half) (s : State) :
    KeepsBuffers s (raise e sub info s) := ⟨rfl, rfl, rfl, rfl⟩

theorem keepsBuffers_txline (a : SinkAnswer) (s : State) : KeepsBuffers s (txline a s) := by
  rcases txline_cases a s with ⟨-, e⟩ | ⟨-, -, e⟩ | ⟨-, -, -, e⟩ | ⟨-, -, -, e⟩ <;> rw [e] <;>
    exact ⟨rfl, rfl, rfl, rfl⟩

theorem keepsBuffers_rxtmo (s : State) : KeepsBuffers s (rxtmo s) := by
  rcases rxtmo_cases s with e | ⟨-, -, e⟩ <;> rw [e] <;> exact ⟨rfl, rfl, rfl, rfl⟩

/-- Every command keeps both buffers, `SOFTRST` included (R236). -/
theorem keepsBuffers_command (c : Byte) (s : State) : KeepsBuffers s (command c s) := by
  rcases command_cases c s with ⟨-, e⟩ | ⟨-, e⟩ | ⟨-, e⟩ | ⟨-, e⟩ | ⟨-, e⟩ | ⟨-, e⟩ <;> rw [e]
  · exact .refl s
  · rcases txframe_cases s with ⟨x, sub, e⟩ | ⟨-, -, -, -, e⟩ <;> rw [e] <;> exact ⟨rfl, rfl, rfl, rfl⟩
  · rcases rxframe_cases s with ⟨x, sub, e⟩ | ⟨-, -, -, e⟩ <;> rw [e] <;> exact ⟨rfl, rfl, rfl, rfl⟩
  · rcases rxrel_cases s with ⟨-, e⟩ | ⟨-, e⟩ <;> rw [e] <;> exact ⟨rfl, rfl, rfl, rfl⟩
  · exact ⟨rfl, rfl, rfl, rfl⟩
  · exact keepsBuffers_raise _ _ _ s

theorem keepsBuffers_storeReg (r : Reg) (v : Word) (s : State) : KeepsBuffers s (storeReg r v s) := by
  cases r <;> exact ⟨rfl, rfl, rfl, rfl⟩

theorem keepsBuffers_clearReg (r : Reg) (v : Word) (s : State) : KeepsBuffers s (clearReg r v s) := by
  cases r <;> exact ⟨rfl, rfl, rfl, rfl⟩

/-- Every step of the table other than an `RXPKT` keeps both buffers (R70, R74). -/
theorem after_keepsBuffers_or_rxpkt (i : Instr) (s : State) :
    KeepsBuffers s (after i s) ∨ ∃ d, offers d i = true ∧ after i s = rxpkt d s := by
  rcases after_cases i s with e | ⟨o, e⟩ | ⟨line, last, ts, ssrc, n, o, -, e⟩ | ⟨a, e, -⟩ | ⟨d, hi, e⟩
    | ⟨c, -, e⟩ | ⟨code, -, e⟩ | ⟨-, e⟩ | ⟨r, v, -, -, -, e⟩ | ⟨r, v, -, -, -, e⟩ | ⟨r, v, -, -, e⟩ <;>
    rw [e]
  · exact .inl (.refl s)
  · exact .inl ⟨rfl, rfl, rfl, rfl⟩
  · exact .inl ⟨rfl, rfl, rfl, rfl⟩
  · exact .inl (keepsBuffers_txline a s)
  · exact .inr ⟨d, hi, rfl⟩
  · exact .inl (keepsBuffers_command c s)
  · exact .inl (keepsBuffers_raise _ _ _ s)
  · exact .inl (keepsBuffers_rxtmo s)
  · exact .inl (keepsBuffers_raise _ _ _ s)
  · exact .inl (keepsBuffers_storeReg r v s)
  · exact .inl (keepsBuffers_clearReg r v s)

/-- Whatever becomes of a datagram, it writes neither `CTRL` nor the agenda. -/
theorem rxpkt_keeps_ctrl_agenda (d : List Byte) (s : State) :
    (rxpkt d s).ctrl = s.ctrl ∧ (rxpkt d s).agenda = s.agenda := by
  rcases rxpkt_cases d s with ⟨-, e⟩ | ⟨-, r, idx, e⟩ | ⟨-, hdr, descs, payoff, -, -, e⟩
    | ⟨-, hdr, descs, payoff, -, -, -, e⟩ <;> rw [e]
  · exact ⟨rfl, rfl⟩
  · exact ⟨rfl, rfl⟩
  · exact ⟨rfl, rfl⟩
  · simp [acceptDatagram]

/-- Settles O51: a step that is no `RXPKT` keeps both buffers, and an `RXPKT` writes `RXFB` only where it
accepts its datagram. -/
theorem stepsOfTheTableKeepTheBuffers : Obligations.StepsOfTheTableKeepTheBuffers := by
  intro i s t h
  rw [after_of_exec h]
  rcases after_keepsBuffers_or_rxpkt i s with ⟨htxfb, hcfg, hagenda, hrxfb⟩ | ⟨d, hi, e⟩
  · exact ⟨htxfb, hcfg, hagenda, .inl hrxfb⟩
  · rw [e]
    obtain ⟨hpass, htxfb⟩ := keepsPass_rxpkt d s
    refine ⟨htxfb, hpass.cfg, (rxpkt_keeps_ctrl_agenda d s).2, (rxpkt_rxfb_cases d s).imp_right ?_⟩
    rintro ⟨hr, hdr, descs, hacc⟩
    exact ⟨hr, d, hdr, descs, hi, hacc⟩

/-! ## The bound of the scatter write (R75, R83) -/

/-- The bytes of a descriptor inside the geometry end inside the frame. -/
theorem descriptorFits_end_le {s : State} {D : Descriptor} (h : descriptorFits s D) :
    dstAddr (stride s) D + D.length.toNat ≤ fbBytes s := by
  obtain ⟨hline, hspan⟩ := h
  calc dstAddr (stride s) D + D.length.toNat
      ≤ D.line.toNat * stride s + stride s := by rw [dstAddr, stride]; omega
    _ = (D.line.toNat + 1) * stride s := (Nat.succ_mul _ _).symm
    _ ≤ s.height.toNat * stride s := Nat.mul_le_mul_right _ hline
    _ = fbBytes s := by rw [stride, fbBytes]; ring

/-- Settles O29: an accepted datagram has all its descriptors inside the geometry, so the scatter write covers
no offset at `FB_BYTES` or above. -/
theorem rxpktNeverWritesOutsideTheFrame : Obligations.RxpktNeverWritesOutsideTheFrame := by
  intro s t d i a hi h ha
  rw [exec_of_offers hi] at h
  injection h with h
  subst h
  rcases rxpkt_rxfb_cases d s with e | ⟨hr, hdr, descs, hacc⟩
  · rw [e]
  · rw [rxpkt_of_acceptedAs hr hacc, acceptDatagram_rxfb]
    obtain ⟨-, -, hfits⟩ := hacc
    refine memGet_scatter_outside _ _ _ _ _ _ fun D hD hcov => ?_
    have hend := descriptorFits_end_le (hfits D hD)
    omega

/-! ## A datagram offered twice (R81) -/

/-- What a scatter write leaves at an offset: the byte that stood there, or a value that the write alone
decides. -/
theorem memGet_scatter_cases (rowStride : Nat) (d : List Byte) (a : Nat) (ds : List Descriptor) :
    ∀ pos : Nat, (∀ m, memGet (scatter rowStride d ds pos m) a = memGet m a)
      ∨ ∃ v, ∀ m, memGet (scatter rowStride d ds pos m) a = v := by
  induction ds with
  | nil => exact fun _ => .inl fun _ => rfl
  | cons D ds ih =>
    intro pos
    simp only [scatter]
    rcases ih (pos + D.length.toNat) with hkeep | ⟨v, hv⟩
    · simp only [hkeep, memGet_memWrite]
      split
      · exact .inr ⟨_, fun _ => rfl⟩
      · exact .inl fun _ => rfl
    · exact .inr ⟨v, fun _ => hv _⟩

/-- The same scatter write again changes no byte. -/
theorem memGet_scatter_scatter (rowStride : Nat) (d : List Byte) (ds : List Descriptor) (pos : Nat)
    (m : Memory) (a : Nat) :
    memGet (scatter rowStride d ds pos (scatter rowStride d ds pos m)) a
      = memGet (scatter rowStride d ds pos m) a := by
  rcases memGet_scatter_cases rowStride d a ds pos with hkeep | ⟨v, hv⟩
  · rw [hkeep (scatter rowStride d ds pos m)]
  · rw [hv, hv]

/-- A datagram moves nothing that decides what is accepted. -/
theorem acceptedAs_rxpkt (d d' : List Byte) (s : State) (hdr : Header) (descs : List Descriptor) :
    acceptedAs (rxpkt d' s) d hdr descs ↔ acceptedAs s d hdr descs := by
  obtain ⟨hpass, -⟩ := keepsPass_rxpkt d' s
  obtain ⟨hctrl, -⟩ := rxpkt_keeps_ctrl_agenda d' s
  simp only [acceptedAs, rejectedByValidation, descriptorFits, hctrl, hpass.cfg, hpass.width,
    hpass.height]

/-- No datagram starts a cycle (R190, R194). -/
theorem receiving_of_rxpkt {d : List Byte} {s : State} (h : (rxpkt d s).rxState = .receiving) :
    s.rxState = .receiving := by
  by_contra hr
  rw [rxpkt, if_neg hr] at h
  exact hr h

/-- Settles O31: a datagram that is accepted the second time was accepted the first time, and the two scatter
writes are the same one. -/
theorem duplicateDatagramWritesTheSameBytes : Obligations.DuplicateDatagramWritesTheSameBytes := by
  intro s t u d i hi ht hrt hu a
  rw [exec_of_offers hi] at ht hu
  injection ht with ht
  injection hu with hu
  subst ht hu
  rcases rxpkt_rxfb_cases d (rxpkt d s) with e | ⟨-, hdr, descs, hacc⟩
  · rw [e]
  · have hfirst := rxpkt_of_acceptedAs (receiving_of_rxpkt hrt) ((acceptedAs_rxpkt d d s hdr descs).mp hacc)
    have hstride : stride (rxpkt d s) = stride s := by rw [stride, (keepsPass_rxpkt d s).1.width, stride]
    rw [rxpkt_of_acceptedAs hrt hacc, acceptDatagram_rxfb, hstride, hfirst, acceptDatagram_rxfb,
      memGet_scatter_scatter]

end Sys2Proof.Machine
end

section
/-! SUPPORT. The encoding (30_encoding): the frame that `encode` writes is read back field by field; what `DECH`
reads from the fixed bytes of a header (R102, R103). -/

namespace Sys2Proof

/-! ## The port byte, the sink's answer and the reserved codes -/

@[simp] theorem portOfByte_portByte (port : Port) : portOfByte (portByte port) = some port := by
  cases port <;> rfl

/-- What stands after a port byte goes to that port's decoder (log 2). -/
@[simp] theorem decode_portByte (port : Port) (b : List Byte) :
    decode (portByte port :: b) = decodeAt port b := by
  simp only [decode, portOfByte_portByte]

@[simp] theorem decodeAnswer_answerByte (answer : SinkAnswer) :
    decodeAnswer (answerByte answer) = some answer := by
  cases answer <;> rfl

theorem decodeCommand_reserved {code : Byte} (h : 5 ≤ code.toNat) :
    decodeCommand code = .cmdReserved code := by
  unfold decodeCommand
  split
  case h_6 => rfl
  all_goals omega

/-! ## A descriptor read back (R104) -/

@[simp] theorem unpackDesc_packDesc (D : Descriptor) : unpackDesc (packDesc D) 0 = D := by
  have hlength : rd16 (packDesc D) 0 = D.length := half_split D.length
  have hline : rd16 (packDesc D) 2 = D.line := half_split D.line
  have hoffw : rd16 (packDesc D) 4 = D.c ++ D.offset := half_split (D.c ++ D.offset)
  simp only [unpackDesc, Nat.zero_add, hlength, hline, hoffw, flag_of_append, offset_of_append]

/-! ## The protocol word (R108) -/

theorem protocolWord_seq (m : BitVec 1) (seq : Half) : (protocolWord m seq).extractLsb' 0 16 = seq := by
  apply BitVec.eq_of_toNat_eq
  rw [extract_toNat, protocolWord_toNat]
  omega

/-- What stands above the sequence number: `0x8060`, or `0x80E0` with the marker. -/
theorem protocolWord_high (m : BitVec 1) (seq : Half) :
    (protocolWord m seq).extractLsb' 16 16 = BitVec.ofNat 16 (0x8060 + 0x80 * m.toNat) := by
  apply BitVec.eq_of_toNat_eq
  rw [extract_toNat, protocolWord_toNat, BitVec.toNat_ofNat]
  omega

theorem decodeEmitted_line (answer : SinkAnswer) (seq : Half) :
    decodeEmitted answer (protocolWord 0 seq) = .instr (.pktLine seq answer) := by
  have hline : (protocolWord 0 seq).extractLsb' 16 16 = 0x8060#16 := protocolWord_high 0 seq
  rw [decodeEmitted, if_pos hline, protocolWord_seq]

theorem decodeEmitted_last (answer : SinkAnswer) (seq : Half) :
    decodeEmitted answer (protocolWord 1 seq) = .instr (.pktLast seq answer) := by
  have hlast : (protocolWord 1 seq).extractLsb' 16 16 = 0x80E0#16 := protocolWord_high 1 seq
  have hline : (protocolWord 1 seq).extractLsb' 16 16 ≠ 0x8060#16 := by
    rw [hlast]
    decide
  rw [decodeEmitted, if_neg hline, if_pos hlast, protocolWord_seq]

/-! ## The header `ENCH` builds (R144, R148) -/

theorem protocolWord_byte0 (m : BitVec 1) (seq : Half) :
    (protocolWord m seq).extractLsb' 24 8 = 0x80#8 := by
  apply BitVec.eq_of_toNat_eq
  rw [extract_toNat, protocolWord_toNat, BitVec.toNat_ofNat]
  omega

theorem protocolWord_byte1 (m : BitVec 1) (seq : Half) :
    (protocolWord m seq).extractLsb' 16 8 = m ++ rtpPayloadType := by
  apply BitVec.eq_of_toNat_eq
  rw [extract_toNat, protocolWord_toNat, append_toNat, rtpPayloadType, BitVec.toNat_ofNat]
  omega

/-- The marker and the payload type share a byte. -/
theorem marker_of_append (m : BitVec 1) (pt : BitVec 7) : (m ++ pt : Byte).extractLsb' 7 1 = m := by
  apply BitVec.eq_of_toNat_eq
  rw [extract_toNat, append_toNat]
  omega

theorem payloadType_of_append (m : BitVec 1) (pt : BitVec 7) :
    (m ++ pt : Byte).extractLsb' 0 7 = pt := by
  apply BitVec.eq_of_toNat_eq
  rw [extract_toNat, append_toNat]
  omega

/-- The operands of `ENCH` are read from its header, whatever sequence number it carries (log 2). -/
theorem decodeHeader_headerBytes (seq line : Half) (last : BitVec 1) (ts ssrc : Word) (n : Half) :
    decodeHeader (headerBytes seq line last ts ssrc n) = .instr (.ench line last ts ssrc n) := by
  have hbyte0 : byteAt (headerBytes seq line last ts ssrc n) 0 = 0x80#8 := protocolWord_byte0 last seq
  have hbyte1 : byteAt (headerBytes seq line last ts ssrc n) 1 = last ++ rtpPayloadType :=
    protocolWord_byte1 last seq
  have hts : rd32 (headerBytes seq line last ts ssrc n) 4 = ts := word_split ts
  have hssrc : rd32 (headerBytes seq line last ts ssrc n) 8 = ssrc := word_split ssrc
  have hextseq : rd16 (headerBytes seq line last ts ssrc n) 12 = 0 := half_split 0
  have hstride : rd16 (headerBytes seq line last ts ssrc n) 14 = n := half_split n
  have hline : rd16 (headerBytes seq line last ts ssrc n) 16 = line := half_split line
  have hoffw : rd16 (headerBytes seq line last ts ssrc n) 18 = 0 := half_split (0#1 ++ 0#15)
  have hconst : headerConstantsOk (headerBytes seq line last ts ssrc n) = true := by
    simp [headerConstantsOk, hbyte0, hbyte1, payloadType_of_append, hextseq, hoffw]
  rw [decodeHeader, if_pos hconst, hbyte1, marker_of_append, hts, hssrc, hstride, hline]

/-! ## What each port reads from the operands the encoder writes -/

theorem decodeAt_packd (D : Descriptor) :
    decodeAt .packd (packDesc D) = .instr (.packd D.length D.line D.c D.offset) :=
  congrArg (fun D : Descriptor => Decoded.instr (.packd D.length D.line D.c D.offset))
    (unpackDesc_packDesc D)

theorem decodeAt_desc (D : Descriptor) : decodeAt .desc (packDesc D) = .instr (decodeDesc D) :=
  congrArg (fun D => Decoded.instr (decodeDesc D)) (unpackDesc_packDesc D)

theorem decodeAt_ench (seq line : Half) (last : BitVec 1) (ts ssrc : Word) (n : Half) :
    decodeAt .ench (headerBytes seq line last ts ssrc n) = .instr (.ench line last ts ssrc n) :=
  decodeHeader_headerBytes seq line last ts ssrc n

theorem decodeAt_tx (answer : SinkAnswer) :
    decodeAt .tx [answerByte answer] = .instr (.txline answer) := by
  simp only [decodeAt, decodeAnswer_answerByte]

theorem decodeAt_pkt (answer : SinkAnswer) (w : Word) :
    decodeAt .pkt (answerByte answer :: be32 w) = decodeEmitted answer w := by
  have hword : rd32 (be32 w) 0 = w := word_split w
  rw [be32] at hword ⊢
  simp only [decodeAt, decodeAnswer_answerByte, hword]

theorem decodeAt_regrd (off : Word) : decodeAt .regrd (be32 off) = .instr (.regrd off) :=
  congrArg (fun off => Decoded.instr (.regrd off)) (word_split off)

theorem decodeAt_regwr (off v : Word) :
    decodeAt .regwr (be32 off ++ be32 v) = .instr (.regwr off v) :=
  congrArg₂ (fun off v => Decoded.instr (.regwr off v)) (word_split off) (word_split v)

/-! ## Every step that fits its row is read back -/

theorem decode_encode {i : Instr} (h : rowFits i = true) : decode (encode i) = .instr i := by
  cases i with
  | packd length line c offset => rw [encode, decode_portByte, decodeAt_packd]
  | descLast length line offset => rw [encode, decode_portByte, decodeAt_desc]; rfl
  | descMore length line offset => rw [encode, decode_portByte, decodeAt_desc]; rfl
  | ench line last ts ssrc n => rw [encode, decode_portByte, decodeAt_ench]
  | pktLine seq answer => rw [encode, decode_portByte, decodeAt_pkt, decodeEmitted_line]
  | pktLast seq answer => rw [encode, decode_portByte, decodeAt_pkt, decodeEmitted_last]
  | txline answer => rw [encode, decode_portByte, decodeAt_tx]
  | rxpktV1 d =>
    have hmatch : datagramMatchesV1 d = true := h
    rw [encode, decode_portByte, decodeAt, decodeOffer, if_pos hmatch]
  | rxpktV0 d =>
    have hmatch : ¬ datagramMatchesV1 d = true := by simpa [rowFits] using h
    rw [encode, decode_portByte, decodeAt, decodeOffer, if_neg hmatch]
  | cmdReserved code =>
    rw [encode, decode_portByte, decodeAt, decodeCommand_reserved (of_decide_eq_true h)]
  | regrd off => rw [encode, decode_portByte, decodeAt_regrd]
  | regwr off v => rw [encode, decode_portByte, decodeAt_regwr]
  | _ => rfl

/-- Settles O1: a well-formed step fits its row, and each port reads back the operands the encoder writes. -/
theorem decodeOfEncodeIsTheStep : Obligations.DecodeOfEncodeIsTheStep := by
  intro cfg i h
  obtain ⟨hfits, -⟩ := (wellFormed_iff cfg i).mp h
  exact decode_encode hfits

/-! ## Table words -/

theorem decodeTableWord_of_encode {nbits w : Nat} {i : Instr} (hfits : rowFits i = true)
    (hframe : tableFrame nbits w = encode i) : decodeTableWord nbits w = some i := by
  rw [decodeTableWord, hframe, decode_encode hfits]

/-- Settles O2: ten of the words are what the encoder writes for their steps; the `ENCH` word carries the
sequence number `0xFFFF`, which the decoder does not read. -/
theorem writtenOutWordsDecode : Obligations.WrittenOutWordsDecode := by
  unfold Obligations.WrittenOutWordsDecode
  iterate 10 refine ⟨decodeTableWord_of_encode (by decide) (by decide), ?_⟩
  have hframe : tableFrame 160 0x80E0FFFF_00015F90_DEADBEEF_0000_03C0_01DF_0000
      = portByte .ench :: headerBytes 0xFFFF 479 1 0x00015F90 0xDEADBEEF 960 := by decide
  rw [decodeTableWord, hframe, decode_portByte, decodeAt_ench]

end Sys2Proof

namespace Sys2Proof.Machine

/-! ## The header fields of a datagram (R102, R103) -/

/-- `BE32` cut where R102 cuts it: the first byte, the second byte and the low half. -/
theorem rd32_parts (d : List Byte) (i : Nat) :
    (rd32 d i).toNat / 16777216 = (byteAt d i).toNat
    ∧ (rd32 d i).toNat / 65536 % 256 = (byteAt d (i + 1)).toNat
    ∧ (rd32 d i).toNat % 65536 = (byteAt d (i + 2)).toNat * 256 + (byteAt d (i + 3)).toNat := by
  rw [rd32_toNat]
  omega

/-- Settles O11: an accepted datagram's header is what `readHeader` reads, and each field of its protocol word
lies inside one part of that word. -/
theorem dechHeaderFields : Obligations.DechHeaderFields := by
  intro cfg d hdr descs payoff h b
  obtain ⟨-, -, -, rfl, -⟩ := dech_ok h
  obtain ⟨hbyte0, hbyte1, hseq⟩ := rd32_parts d 0
  simp only [Nat.zero_add] at hbyte1 hseq
  have hb : ∀ i, b i = (byteAt d i).toNat := fun _ => rfl
  have h0 := (byteAt d 0).isLt
  simp only [hb, readHeader, extract_toNat]
  refine ⟨rd32_toNat d 0, ?_, ?_, ?_, ?_, ?_, ?_, ?_, rd32_toNat d 4, rd32_toNat d 8, rd16_toNat d 12⟩
  all_goals omega

/-! ## The steps of the table -/

/-- Settles O53: `exec` answers `after`, in every state. -/
theorem everyStepOfTheTableCompletes : Obligations.EveryStepOfTheTableCompletes := by
  intro i s
  exact ⟨after i s, exec_eq_after i s⟩

end Sys2Proof.Machine
end

section
/-! SUPPORT. The header codec (40_header_codec): what `PACKD`, `UNPKD`, the descriptor rows and `ENCH` answer;
when the loops of `DECH` go through and where they stop; that `DECH` reads nothing after the last payload and reads
back what `ENCH` built. -/

namespace Sys2Proof

/-! ## Bytes as numbers -/

/-- `be16` as R14 writes it. -/
theorem be16_eq_ofNat (v : Half) :
    be16 v = [BitVec.ofNat 8 (v.toNat / 256), BitVec.ofNat 8 (v.toNat % 256)] := by
  have hhigh : v.extractLsb' 8 8 = BitVec.ofNat 8 (v.toNat / 256) := by
    apply BitVec.eq_of_toNat_eq
    rw [extract_toNat, BitVec.toNat_ofNat]
    omega
  have hlow : v.extractLsb' 0 8 = BitVec.ofNat 8 (v.toNat % 256) := by
    apply BitVec.eq_of_toNat_eq
    rw [extract_toNat, BitVec.toNat_ofNat]
    omega
  rw [be16, hhigh, hlow]

/-- Six bytes are a descriptor's pattern, whatever they are (R141). -/
@[simp] theorem packDesc_unpackDesc (b0 b1 b2 b3 b4 b5 : Byte) :
    packDesc (unpackDesc [b0, b1, b2, b3, b4, b5] 0) = [b0, b1, b2, b3, b4, b5] := by
  have hlength : be16 (rd16 [b0, b1, b2, b3, b4, b5] 0) = [b0, b1] := be16_append b0 b1
  have hline : be16 (rd16 [b0, b1, b2, b3, b4, b5] 2) = [b2, b3] := be16_append b2 b3
  have hoffw : be16 (rd16 [b0, b1, b2, b3, b4, b5] 4) = [b4, b5] := be16_append b4 b5
  simp only [packDesc, unpackDesc, Nat.zero_add, offset_split, hlength, hline, hoffw, List.cons_append,
    List.nil_append]

/-- The fields of a descriptor as R142 writes them. -/
theorem unpackDesc_toNat (b : List Byte) (i : Nat) :
    (unpackDesc b i).length.toNat = (rd16 b i).toNat
    ∧ (unpackDesc b i).line.toNat = (rd16 b (i + 2)).toNat
    ∧ (unpackDesc b i).c.toNat = (rd16 b (i + 4)).toNat / 32768
    ∧ (unpackDesc b i).offset.toNat = (rd16 b (i + 4)).toNat % 32768 := by
  have hoffw := (rd16 b (i + 4)).isLt
  refine ⟨rfl, rfl, ?_, ?_⟩ <;> simp only [unpackDesc, extract_toNat] <;> omega

/-! ## Datagrams that agree on their first bytes -/

section
variable {a b : List Byte} {k i : Nat} (hab : ∀ j, j < k → byteAt a j = byteAt b j)
include hab

theorem rd16_congr (hi : i + 2 ≤ k) : rd16 a i = rd16 b i := by
  rw [rd16, rd16, hab i (by omega), hab (i + 1) (by omega)]

theorem rd32_congr (hi : i + 4 ≤ k) : rd32 a i = rd32 b i := by
  rw [rd32, rd32, rd16_congr hab (by omega), rd16_congr hab (by omega)]

theorem unpackDesc_congr (hi : i + 6 ≤ k) : unpackDesc a i = unpackDesc b i := by
  simp only [unpackDesc, rd16_congr (i := i) hab (by omega), rd16_congr (i := i + 2) hab (by omega),
    rd16_congr (i := i + 4) hab (by omega)]

end

/-- Replacing what follows the first `k` bytes. -/
theorem byteAt_take_append (d rest : List Byte) {k : Nat} (hk : k ≤ d.length) :
    ∀ j, j < k → byteAt (d.take k ++ rest) j = byteAt d j := by
  intro j hj
  rw [byteAt_append_left _ _ _ (by rw [List.length_take]; omega)]
  simp [byteAt, List.getD_eq_getElem?_getD, hj]

end Sys2Proof

namespace Sys2Proof.Machine

/-! ## The codec rows as steps -/

/-- Settles O4: each direction puts every field back together from its bytes. -/
theorem descriptorPackUnpackRoundTrip : Obligations.DescriptorPackUnpackRoundTrip :=
  ⟨fun length line c offset => unpackDesc_packDesc ⟨length, line, c, offset⟩, packDesc_unpackDesc⟩

/-- Settles O5: `PACKD` hands out `packDesc`, three big-endian halves. -/
theorem packdAnswersTheDescriptorBytes : Obligations.PackdAnswersTheDescriptorBytes := by
  intro length line c offset s
  rw [exec_eq_after, after, packDesc, be16_eq_ofNat, be16_eq_ofNat, be16_eq_ofNat, append_toNat]
  rfl

/-- Settles O6: `UNPKD` hands out `unpackDesc`, whose halves are read from two bytes each. -/
theorem unpkdAnswersTheDescriptorFields : Obligations.UnpkdAnswersTheDescriptorFields := by
  intro b0 b1 b2 b3 b4 b5 s
  obtain ⟨hlength, hline, hc, hoffset⟩ := unpackDesc_toNat [b0, b1, b2, b3, b4, b5] 0
  rw [rd16_toNat] at hlength hline hc hoffset
  exact ⟨_, exec_eq_after _ s, hlength, hline, hc, hoffset⟩

/-- Settles O7: `chainTurn` adds the descriptor, and goes on exactly when its flag is set. -/
theorem descriptorRowsEndOrContinueTheChain : Obligations.DescriptorRowsEndOrContinueTheChain := by
  intro length line offset s
  exact ⟨exec_eq_after (.descLast length line offset) s, exec_eq_after (.descMore length line offset) s⟩

/-- Settles O9: `DECH` hands out `dech` and does nothing else. -/
theorem dechAnswersItsResult : Obligations.DechAnswersItsResult := by
  intro d s
  exact exec_eq_after (.dech d) s

/-! ## The header `ENCH` builds (R144) -/

/-- An emitted header begins with its protocol word, whatever follows it. -/
theorem rd32_headerBytes_append (seq line : Half) (last : BitVec 1) (ts ssrc : Word) (n : Half)
    (p : List Byte) : rd32 (headerBytes seq line last ts ssrc n ++ p) 0 = protocolWord last seq :=
  word_split (protocolWord last seq)

/-- The fields of an emitted header, whatever follows it. -/
theorem emittedHeader_headerBytes_append (seq line : Half) (last : BitVec 1) (ts ssrc : Word) (n : Half)
    (p : List Byte) :
    emittedHeader (headerBytes seq line last ts ssrc n ++ p) (last == 1) seq ts ssrc n.toNat
      line.toNat := by
  have hstride : rd16 (headerBytes seq line last ts ssrc n ++ p) 14 = n := half_split n
  have hline : rd16 (headerBytes seq line last ts ssrc n ++ p) 16 = line := half_split line
  have hextseq : rd16 (headerBytes seq line last ts ssrc n ++ p) 12 = 0 := half_split 0
  have hoffw : rd16 (headerBytes seq line last ts ssrc n ++ p) 18 = 0 := half_split (0#1 ++ 0#15)
  refine ⟨?_, word_split ts, word_split ssrc, ?_, ?_, ?_, ?_⟩
  · rw [rd32_headerBytes_append, protocolWord_toNat]
    rcases BitVec.eq_zero_or_eq_one last with rfl | rfl <;> rfl
  · rw [hextseq]; rfl
  · rw [hstride]
  · rw [hline]
  · rw [hoffw]; rfl

/-- Settles O8: `ENCH` hands out `headerBytes` with the sequence number before the call, and `enchAdvance` is its
one other effect. -/
theorem enchBuildsTheHeaderAndAdvancesSeq : Obligations.EnchBuildsTheHeaderAndAdvancesSeq := by
  intro line last ts ssrc n s
  refine ⟨headerBytes s.seq line last ts ssrc n, ?_, headerBytes_length .., ?_⟩
  · have hseq : BitVec.ofNat 16 ((s.seq.toNat + 1) % 65536) = s.seq + 1 := by
      apply BitVec.eq_of_toNat_eq
      simp
    rw [exec_eq_after, hseq]
    rfl
  · simpa using emittedHeader_headerBytes_append s.seq line last ts ssrc n []

/-! ## The chain loop of `DECH` (R150, R152) -/

theorem readChain_of_last {d : List Byte} {len room n : Nat} (hlen : 14 + 6 * (n + 1) ≤ len)
    (hc : (unpackDesc d (14 + 6 * n)).c = 0) :
    readChain d len (room + 1) n = .ok [unpackDesc d (14 + 6 * n)] := by
  have hend : chainGoesOn (unpackDesc d (14 + 6 * n)) = false := bne_eq_false_iff_eq.mpr hc
  simp [readChain, hend, Nat.not_lt.mpr hlen]

theorem readChain_of_more {d : List Byte} {len room n : Nat} {ds : List Descriptor}
    (hlen : 14 + 6 * (n + 1) ≤ len) (hc : (unpackDesc d (14 + 6 * n)).c ≠ 0)
    (hds : readChain d len room (n + 1) = .ok ds) :
    readChain d len (room + 1) n = .ok (unpackDesc d (14 + 6 * n) :: ds) := by
  have hgo : chainGoesOn (unpackDesc d (14 + 6 * n)) = true := bne_iff_ne.mpr hc
  simp [readChain, hgo, Nat.not_lt.mpr hlen, hds]

/-- A chain that stands in the datagram, inside both caps, is read: the converse of `readChain_ok`. -/
theorem readChain_of_descriptors (d : List Byte) (len : Nat) (ds : List Descriptor) :
    ∀ room n : Nat, 1 ≤ ds.length → ds.length ≤ room → 14 + 6 * (n + ds.length) ≤ len →
      (∀ i D, ds[i]? = some D →
        D = unpackDesc d (14 + 6 * (n + i)) ∧ (D.c = 0 ↔ i + 1 = ds.length)) →
      readChain d len room n = .ok ds := by
  induction ds with
  | nil => intro room n hne; simp at hne
  | cons D ds ih =>
    intro room n _ hroom hend hat
    rw [List.length_cons] at hroom hend
    obtain ⟨room, rfl⟩ : ∃ r, room = r + 1 := ⟨room - 1, by omega⟩
    obtain ⟨hD, hc⟩ := hat 0 D rfl
    rw [Nat.add_zero] at hD
    subst hD
    cases ds with
    | nil => exact readChain_of_last (by omega) (hc.mpr rfl)
    | cons E es =>
      refine readChain_of_more (by omega) (fun h => by simpa using hc.mp h) ?_
      refine ih room (n + 1) (by simp) (by omega) (by omega) fun i F hF => ?_
      have hnext := hat (i + 1) F (by simpa using hF)
      rwa [show n + (i + 1) = n + 1 + i by omega, List.length_cons, Nat.add_right_cancel_iff] at hnext

/-! ## The payload loop of `DECH` (R150, R153) -/

/-- Every payload ends inside the datagram exactly when the last one does. -/
theorem payloadFault_eq_none_iff (len : Nat) (ds : List Descriptor) :
    ∀ pos i : Nat, pos ≤ len → (payloadFault len ds pos i = none ↔ pos + totalLength ds ≤ len) := by
  induction ds with
  | nil => intro pos i hpos; simpa [payloadFault, totalLength] using hpos
  | cons D ds ih =>
    intro pos i hpos
    rw [payloadFault, totalLength]
    split
    · next hover => simp; omega
    · next hin => rw [ih _ _ (by omega), Nat.add_assoc]

/-- A payload fault is at the first descriptor whose payload ends past the datagram. -/
theorem payloadFault_eq_some (len : Nat) (ds : List Descriptor) :
    ∀ pos i k : Nat, pos ≤ len → payloadFault len ds pos i = some k →
      ∃ j, k = i + j ∧ j < ds.length ∧ len < pos + totalLength (ds.take (j + 1))
        ∧ pos + totalLength (ds.take j) ≤ len := by
  induction ds with
  | nil => intro pos i k _ h; simp [payloadFault] at h
  | cons D ds ih =>
    intro pos i k hpos h
    rw [payloadFault] at h
    split at h
    · next hover =>
      injection h with h
      exact ⟨0, h.symm, by simp, by simpa [totalLength] using hover, by simpa [totalLength] using hpos⟩
    · next hin =>
      obtain ⟨j, rfl, hj, hover, hbefore⟩ := ih _ _ _ (by omega) h
      refine ⟨j + 1, by omega, by simpa using hj, ?_, ?_⟩ <;>
        · rw [List.take_succ_cons, totalLength]
          omega

/-! ## `DECH` (R150) -/

theorem dech_of_short {cfg : Config} {d : List Byte} (h : d.length < 20) :
    dech cfg d = .malformed .short 0 := by
  rw [dech, if_pos h]

/-- A chain that is read and payloads that end inside the datagram make `DECH` answer `Ok`: the converse of
`dech_ok`. -/
theorem dech_of_chain {cfg : Config} {d : List Byte} {descs : List Descriptor}
    (hchain : readChain d d.length cfg.maxDesc 0 = .ok descs)
    (hend : payloadOffset descs + totalLength descs ≤ d.length) :
    dech cfg d = .ok (readHeader d) descs (payloadOffset descs) := by
  obtain ⟨hne, -⟩ := readChain_ok _ _ _ _ _ hchain
  have hpay := (payloadFault_eq_none_iff d.length descs (payloadOffset descs) 0 (by omega)).mpr hend
  have hlen : ¬ d.length < 20 := by rw [payloadOffset] at hend; omega
  simp only [dech, if_neg hlen, hchain, hpay]

/-- The ways a datagram can be malformed. -/
theorem dech_malformed {cfg : Config} {d : List Byte} {sub : DropReason} {idx : Nat}
    (h : dech cfg d = .malformed sub idx) (hlen : 20 ≤ d.length) :
    readChain d d.length cfg.maxDesc 0 = .error (sub, idx)
    ∨ (sub = .payload ∧ ∃ descs, readChain d d.length cfg.maxDesc 0 = .ok descs
        ∧ payloadFault d.length descs (payloadOffset descs) 0 = some idx) := by
  rw [dech, if_neg (by omega)] at h
  split at h
  · next hchain =>
    injection h with hsub hidx
    subst hsub hidx
    exact .inl hchain
  · next descs hchain =>
    split at h
    · next hpay =>
      injection h with hsub hidx
      subst hsub hidx
      exact .inr ⟨rfl, descs, hchain, hpay⟩
    · nomatch h

/-- Settles O12: what `dech` accepts is a chain that `readChain` has read from index 0. -/
theorem dechReadsTheChainToItsEnd : Obligations.DechReadsTheChainToItsEnd := by
  intro cfg d hdr descs payoff h
  obtain ⟨-, hchain, -, -, rfl⟩ := dech_ok h
  obtain ⟨hne, -, -, hat⟩ := readChain_ok _ _ _ _ _ hchain
  simp only [Nat.zero_add] at hat
  exact ⟨rfl, hne, hat⟩

/-- Settles O13: the chain loop has room for `MAX_DESC` descriptors and stops before the end of the datagram, and no
payload is at fault. -/
theorem dechAcceptedStaysInsideTheDatagram : Obligations.DechAcceptedStaysInsideTheDatagram := by
  intro cfg d hdr descs payoff h
  obtain ⟨-, hchain, hpay, -, rfl⟩ := dech_ok h
  obtain ⟨-, hroom, hend, -⟩ := readChain_ok _ _ _ _ _ hchain
  rw [Nat.zero_add] at hend
  exact ⟨(payloadFault_eq_none_iff _ _ _ _ hend).mp hpay, hroom⟩

/-- Settles O14: the fault is the chain loop's, or the payload loop's after a chain that was read whole. -/
theorem dechReportsTheFirstStructuralFault : Obligations.DechReportsTheFirstStructuralFault := by
  intro cfg d sub idx h hlen
  rcases dech_malformed h hlen with hchain | ⟨rfl, descs, hchain, hpay⟩
  · obtain ⟨hmore, -, hend, hcap⟩ := readChain_error _ _ _ _ _ _ hchain (by omega)
    have hmore : ∀ i, i < idx → (unpackDesc d (14 + 6 * i)).c = 1 := fun i => hmore i (Nat.zero_le i)
    rw [Nat.zero_add] at hcap
    rcases hcap with ⟨rfl, rfl⟩ | ⟨rfl, hroom, hover⟩
    · exact .inl ⟨rfl, rfl, hend, hmore⟩
    · exact .inr (.inl ⟨rfl, hroom, hover, hend, hmore⟩)
  · obtain ⟨-, hroom, hend, hat⟩ := readChain_ok _ _ _ _ _ hchain
    simp only [Nat.zero_add] at hend hat
    obtain ⟨j, rfl, hj, hover, hbefore⟩ := payloadFault_eq_some _ _ _ _ _ hend hpay
    rw [Nat.zero_add]
    exact .inr (.inr ⟨rfl, descs, hj, hroom, hat, hover, hbefore⟩)

/-- Settles O10: from 20 bytes on only the chain loop and the payload loop report a fault. -/
theorem dechShortBelowTwentyBytes : Obligations.DechShortBelowTwentyBytes := by
  intro cfg d
  refine ⟨dech_of_short, fun hlen idx h => ?_⟩
  rcases dechReportsTheFirstStructuralFault cfg d .short idx h hlen with ⟨hsub, -⟩ | ⟨hsub, -⟩ | ⟨hsub, -⟩
  all_goals nomatch hsub

/-- Settles O15: `TOOMANY` is reported at index `MAX_DESC`, and `MAX_DESC + 1` descriptors do not fit into
`MAX_DATAGRAM` bytes. -/
theorem defaultCountCapIsNeverTheTighter : Obligations.DefaultCountCapIsNeverTheTighter := by
  intro cfg d idx _ hcap hmax h
  rcases Nat.lt_or_ge d.length 20 with hshort | hlen
  · rw [dech_of_short hshort] at h
    nomatch h
  · rcases dechReportsTheFirstStructuralFault cfg d .tooMany idx h hlen with
      ⟨-, hidx, -⟩ | ⟨hsub, -⟩ | ⟨hsub, -⟩
    · omega
    all_goals nomatch hsub

/-! ## Bytes after the last payload (R155) -/

theorem readHeader_congr {a b : List Byte} {k : Nat} (hab : ∀ j, j < k → byteAt a j = byteAt b j)
    (hk : 14 ≤ k) : readHeader a = readHeader b := by
  simp only [readHeader, rd32_congr (i := 0) hab (by omega), rd32_congr (i := 4) hab (by omega),
    rd32_congr (i := 8) hab (by omega), rd16_congr (i := 12) hab (by omega)]

/-- Settles O16: header and chain lie before the payloads, where nothing is replaced, and the payloads still end
inside the datagram. -/
theorem dechIgnoresTrailingBytes : Obligations.DechIgnoresTrailingBytes := by
  intro cfg d rest hdr descs payoff h
  obtain ⟨hoff, hne, hat⟩ := dechReadsTheChainToItsEnd cfg d hdr descs payoff h
  obtain ⟨hend, hroom⟩ := dechAcceptedStaysInsideTheDatagram cfg d hdr descs payoff h
  obtain ⟨-, -, -, rfl, rfl⟩ := dech_ok h
  have hsame := byteAt_take_append d rest hend
  have hlen : payloadOffset descs + totalLength descs
      ≤ (d.take (payloadOffset descs + totalLength descs) ++ rest).length := by
    rw [List.length_append, List.length_take]
    omega
  rw [← readHeader_congr hsame (by omega)]
  refine dech_of_chain (readChain_of_descriptors _ _ _ _ _ hne hroom (by omega) fun i D hD => ?_) hlen
  have hi : i < descs.length := (List.getElem?_eq_some_iff.mp hD).1
  rw [Nat.zero_add, unpackDesc_congr hsame (by omega)]
  exact hat i D hD

/-! ## The protocol word read back (R157, R158) -/

/-- The fields of a protocol word with version 2, payload type 96 and neither padding nor extension. -/
theorem readHeader_of_word {d : List Byte} {cc : BitVec 4} {m : BitVec 1} {seq : Half}
    (h : (rd32 d 0).toNat = 0x80600000 + cc.toNat * 0x01000000 + m.toNat * 0x00800000 + seq.toNat) :
    readHeader d = { w0 := rd32 d 0, v := 2, p := 0, x := 0, cc := cc, m := m, pt := 96, seq := seq,
                     ts := rd32 d 4, ssrc := rd32 d 8, extseq := rd16 d 12 } := by
  simp only [readHeader, Header.mk.injEq, true_and, and_true]
  refine ⟨?_, ?_, ?_, ?_, ?_, ?_, ?_⟩ <;>
    · apply BitVec.eq_of_toNat_eq
      simp only [extract_toNat, h, BitVec.ofNat_eq_ofNat, BitVec.toNat_ofNat]
      omega

/-- Settles O18: the source's literal is the protocol word with `CC = 2` and a clear marker. -/
theorem sourceLiteralHasClearMarker : Obligations.SourceLiteralHasClearMarker := by
  intro cfg d seq hdr descs payoff hword h
  obtain ⟨-, -, -, rfl, -⟩ := dech_ok h
  rw [readHeader_of_word (cc := 2) (m := 0) (seq := seq) hword]
  exact ⟨rfl, rfl, rfl, rfl, rfl, rfl, rfl⟩

/-- The header `DECH` reads is the one `ENCH` built. -/
theorem readHeader_headerBytes_append (seq line : Half) (last : BitVec 1) (ts ssrc : Word) (n : Half)
    (p : List Byte) :
    readHeader (headerBytes seq line last ts ssrc n ++ p)
      = { w0 := protocolWord last seq, v := 2, p := 0, x := 0, cc := 0, m := last, pt := 96, seq := seq,
          ts := ts, ssrc := ssrc, extseq := 0 } := by
  obtain ⟨-, hts, hssrc, hextseq, -⟩ := emittedHeader_headerBytes_append seq line last ts ssrc n p
  have hextseq : rd16 (headerBytes seq line last ts ssrc n ++ p) 12 = 0 := BitVec.eq_of_toNat_eq hextseq
  have hfields : (rd32 (headerBytes seq line last ts ssrc n ++ p) 0).toNat
      = 0x80600000 + (0 : BitVec 4).toNat * 0x01000000 + last.toNat * 0x00800000 + seq.toNat := by
    rw [rd32_headerBytes_append, protocolWord_toNat]
    rfl
  rw [readHeader_of_word hfields, rd32_headerBytes_append, hts, hssrc, hextseq]

/-- An emitted header carries one descriptor, with a clear continuation flag. -/
theorem unpackDesc_headerBytes_append (seq line : Half) (last : BitVec 1) (ts ssrc : Word) (n : Half)
    (p : List Byte) :
    unpackDesc (headerBytes seq line last ts ssrc n ++ p) 14 = ⟨n, line, 0, 0⟩ :=
  unpackDesc_packDesc ⟨n, line, 0, 0⟩

/-- Settles O17: the chain of an emitted header is its one descriptor, the payload covers it, and each header field
is read back from its place. -/
theorem dechOfEnchRoundTrip : Obligations.DechOfEnchRoundTrip := by
  intro cfg line last ts ssrc n s p hcap hp
  refine ⟨headerBytes s.seq line last ts ssrc n, _, exec_eq_after _ s, rfl, protocolWord last s.seq, ?_⟩
  have hdesc := unpackDesc_headerBytes_append s.seq line last ts ssrc n p
  have hlen : (headerBytes s.seq line last ts ssrc n ++ p).length = 20 + p.length := by
    rw [List.length_append, headerBytes_length]
  obtain ⟨room, hroom⟩ : ∃ room, cfg.maxDesc = room + 1 := ⟨cfg.maxDesc - 1, by omega⟩
  have hchain : readChain (headerBytes s.seq line last ts ssrc n ++ p)
      (headerBytes s.seq line last ts ssrc n ++ p).length cfg.maxDesc 0 = .ok [⟨n, line, 0, 0⟩] := by
    rw [hroom, readChain_of_last (by omega) (by rw [hdesc]), hdesc]
  have hend : payloadOffset [⟨n, line, 0, 0⟩] + totalLength [⟨n, line, 0, 0⟩]
      ≤ (headerBytes s.seq line last ts ssrc n ++ p).length := by
    simp only [payloadOffset, totalLength, List.length_singleton]
    omega
  rw [dech_of_chain hchain hend, readHeader_headerBytes_append]
  rfl

end Sys2Proof.Machine
end

section
/-! SUPPORT. The invariant of the block (10_state R41, R39, 41_fragmenter R173, 60_exceptions R274) is kept: by the
buffer accesses, by `raise`, by each operation of the two engines and of the host, and so by every step. -/

namespace Sys2Proof.Machine

/-! ## No byte outside the largest geometry (R75; log 11) -/

theorem mem_memSet {m : Memory} {a : Nat} {v : Byte} {c : Host.Cell} (h : c ∈ memSet m a v) :
    c = (a, v) ∨ c ∈ m := by
  induction m with
  | nil => exact .inl (by simpa [memSet] using h)
  | cons x m ih =>
    obtain ⟨k, b⟩ := x
    rw [memSet] at h
    split at h
    · simpa using h
    · split at h
      · exact (List.mem_cons.mp h).imp_right (List.mem_cons_of_mem _)
      · rcases List.mem_cons.mp h with hc | hc
        · exact .inr (hc ▸ List.mem_cons_self)
        · exact (ih hc).imp_right (List.mem_cons_of_mem _)

theorem insideBuffer_memSet {m : Memory} {a : Nat} (v : Byte) (hm : insideBuffer m = true)
    (ha : a < largestFbBytes) : insideBuffer (memSet m a v) = true := by
  rw [insideBuffer, List.all_eq_true] at hm ⊢
  intro c hc
  rcases mem_memSet hc with rfl | hc
  · exact decide_eq_true ha
  · exact hm c hc

theorem insideBuffer_memWrite (bs : List Byte) : ∀ {m : Memory} {a : Nat}, insideBuffer m = true →
    a + bs.length ≤ largestFbBytes → insideBuffer (memWrite m a bs) = true := by
  induction bs with
  | nil => exact fun hm _ => hm
  | cons b bs ih =>
    intro m a hm ha
    rw [List.length_cons] at ha
    exact ih (insideBuffer_memSet b hm (by omega)) (by omega)

theorem insideBuffer_scatter (rowStride : Nat) (d : List Byte) (ds : List Descriptor) :
    ∀ {m : Memory} (pos : Nat), insideBuffer m = true →
      (∀ D ∈ ds, dstAddr rowStride D + D.length.toNat ≤ largestFbBytes) →
      insideBuffer (scatter rowStride d ds pos m) = true := by
  induction ds with
  | nil => exact fun _ hm _ => hm
  | cons D ds ih =>
    intro m pos hm hfit
    refine ih _ (insideBuffer_memWrite _ hm ?_) fun E hE => hfit E (List.mem_cons_of_mem _ hE)
    have hD := hfit D List.mem_cons_self
    have htake := List.length_take_le D.length.toNat (d.drop pos)
    omega

/-- No geometry gives more bytes than the largest one (R24, R25). -/
theorem fbBytes_le_largest (s : State) : fbBytes s ≤ largestFbBytes := by
  have hwidth := s.width.isLt
  have hheight := s.height.isLt
  exact Nat.mul_le_mul_right 2 (Nat.mul_le_mul (by omega) (by omega))

/-! ## The error registers (R41, R42) -/

theorem errInfoWord_code (code sub : BitVec 8) (info : Half) :
    (errInfoWord code sub info).extractLsb' 0 8 = code := by
  apply BitVec.eq_of_toNat_eq
  have hcode := code.isLt
  rw [extract_toNat, errInfoWord_toNat]
  omega

/-- The code of every exception the block raises is recorded (R251). -/
theorem excCode_mem_recordedCodes (e : Exc) : (BitVec.ofNat 8 (excCode e)).toNat ∈ recordedCodes := by
  cases e <;> decide

/-- The bit of every exception the block raises is one of those R41 lists. -/
theorem excBit_raisable (e : Exc) : BitVec.twoPow 32 (excCode e) &&& ~~~raisableBits = 0 := by
  cases e <;> decide

/-! ## The next scanline (R174) -/

/-- Below `HEIGHT` the scanline number does not wrap. -/
theorem succ_toNat_of_lt {line height : Half} (h : line.toNat < height.toNat) :
    (line + 1).toNat = line.toNat + 1 := by
  have hheight := height.isLt
  have hone : (1 : Half).toNat = 1 := rfl
  rw [BitVec.toNat_add, hone]
  omega

namespace Inv

variable {s : State}

/-! ## What does not touch the parts of the invariant -/

theorem setAgenda (h : Inv s) (rest : List Event) : Inv { s with agenda := rest } := { h with }

theorem setDraws (h : Inv s) (k : Nat) : Inv { s with draws := k } := { h with }

theorem handOut (h : Inv s) (o : Output) : Inv (handOut o s) := { h with }

theorem enchAdvance (h : Inv s) : Inv (enchAdvance s) := { h with }

theorem emitLine (h : Inv s) (a : SinkAnswer) : Inv (emitLine a s) := { h with }

theorem drop (h : Inv s) (r : DropReason) : Inv (drop r s) := { h with }

theorem countAccepted (h : Inv s) (bytes : Nat) : Inv (countAccepted bytes s) := { h with }

/-! ## Raising an exception (R252) -/

theorem raise (h : Inv s) (e : Exc) (sub : BitVec 8) (info : Half) : Inv (raise e sub info s) :=
  { h with
    reservedErr := by
      calc (s.errStatus ||| BitVec.twoPow 32 (excCode e)) &&& ~~~raisableBits
          = s.errStatus &&& ~~~raisableBits ||| BitVec.twoPow 32 (excCode e) &&& ~~~raisableBits :=
            BitVec.and_or_distrib_right
        _ = 0 := by rw [h.reservedErr, excBit_raisable, BitVec.or_self]
    recorded := by
      rw [raise_errInfo, errInfoWord_code]
      exact excCode_mem_recordedCodes e }

/-! ## The buffers and the registers as the host changes them -/

theorem setBuffer (h : Inv s) (sp : Space) {m : Memory} (hwf : m.wf = true) (hin : insideBuffer m = true) :
    Inv (setBuffer sp m s) := by
  cases sp with
  | txfb => exact { h with txCanonical := hwf, txInside := hin }
  | rxfb => exact { h with rxCanonical := hwf, rxInside := hin }

theorem memWrite_buffer (h : Inv s) (sp : Space) {a : Nat} {bytes : List Byte}
    (hin : a + bytes.length ≤ largestFbBytes) :
    Inv (Machine.setBuffer sp (memWrite (buffer sp s) a bytes) s) := by
  cases sp with
  | txfb => exact h.setBuffer .txfb (memWrite_wf _ _ h.txCanonical) (insideBuffer_memWrite _ h.txInside hin)
  | rxfb => exact h.setBuffer .rxfb (memWrite_wf _ _ h.rxCanonical) (insideBuffer_memWrite _ h.rxInside hin)

/-- A register reset keeps the parameters and both buffers, and every other part holds as after reset. -/
theorem resetRegs (h : Inv s) : Inv (resetRegs s) :=
  { invariantHoldsAtReset with
    pass := nofun
    params := h.params
    txCanonical := h.txCanonical
    rxCanonical := h.rxCanonical
    txInside := h.txInside
    rxInside := h.rxInside }

theorem hardReset (h : Inv s) : Inv (hardReset s) :=
  { h.resetRegs with txCanonical := rfl, rxCanonical := rfl, txInside := rfl, rxInside := rfl }

/-- Of the registers an unlocked write stores, only the geometry is read by a part of the invariant, and it is
unlocked only while neither a pass nor a cycle is in flight (R23). -/
theorem storeReg (h : Inv s) {r : Reg} (v : Word) (hl : lockedReg r s = false) : Inv (storeReg r v s) := by
  cases r with
  | width | height =>
    obtain ⟨hbusy, hrx⟩ : s.txBusy = false ∧ s.rxState ≠ .receiving := by simpa [lockedReg] using hl
    exact { h with
      pass := fun hb => absurd (hbusy.symm.trans hb) nofun
      cycle := fun hr => absurd hr hrx }
  | _ => exact { h with }

theorem clearReg (h : Inv s) (r : Reg) (v : Word) : Inv (clearReg r v s) := by
  cases r with
  | errStatus =>
    refine { h with reservedErr := ?_ }
    calc s.errStatus &&& ~~~v &&& ~~~raisableBits
        = s.errStatus &&& ~~~raisableBits &&& ~~~v := by
          rw [BitVec.and_assoc, BitVec.and_comm (~~~v), BitVec.and_assoc]
      _ = 0 := by rw [h.reservedErr]; exact BitVec.zero_and
  | _ => exact { h with }

/-! ## The fragmenter (R170, R174) -/

theorem txframe (h : Inv s) : Inv (txframe s) := by
  rcases txframe_cases s with ⟨e, sub, heq⟩ | ⟨-, hw, hh, hcap, heq⟩ <;> rw [heq]
  · exact h.raise e sub 1
  · have hline : (0 : Half).toNat < s.height.toNat :=
      Nat.pos_of_ne_zero fun h0 => hh (BitVec.eq_of_toNat_eq h0)
    exact { h with pass := fun _ => ⟨hline, hw, hcap, rfl⟩ }

/-- After a pass the invariant asks nothing of `TX_LINE` and `TX_RESULT`. -/
theorem endPass (h : Inv s) (r : TxResult) (line : Half) : Inv (endPass r { s with txLine := line }) :=
  { h with pass := nofun }

/-- A scanline other than the last leaves `TX_LINE` below `HEIGHT`; every other way ends the pass. -/
theorem txline (h : Inv s) (a : SinkAnswer) : Inv (txline a s) := by
  rcases txline_cases a s with ⟨-, heq⟩ | ⟨-, -, heq⟩ | ⟨-, -, -, heq⟩ | ⟨hb, -, hlast, heq⟩ <;> rw [heq]
  · exact h
  · exact ((h.emitLine .fail).endPass .sendFailure s.txLine).raise _ _ _
  · exact (h.emitLine .ok).endPass .ok _
  · obtain ⟨hline, hw, hcap, hres⟩ := h.pass hb
    have hnext : (s.txLine + 1).toNat < s.height.toNat := by
      rw [succ_toNat_of_lt hline]
      omega
    exact { h with pass := fun _ => ⟨hnext, hw, hcap, hres⟩ }

/-! ## The reassembler (R190, R195, R212, R215) -/

theorem rxframe (h : Inv s) : Inv (rxframe s) := by
  rcases rxframe_cases s with ⟨e, sub, heq⟩ | ⟨-, hw, hh, heq⟩ <;> rw [heq]
  · exact h.raise e sub 2
  · exact { h with cycle := fun _ => ⟨hw, hh, rfl⟩, completed := nofun }

theorem rxrel (h : Inv s) : Inv (rxrel s) := by
  rcases rxrel_cases s with ⟨-, heq⟩ | ⟨-, heq⟩ <;> rw [heq]
  · exact { h with cycle := nofun, completed := nofun }
  · exact h.raise _ _ _

theorem rxtmo (h : Inv s) : Inv (rxtmo s) := by
  rcases rxtmo_cases s with heq | ⟨-, -, heq⟩ <;> rw [heq]
  · exact h
  · have hidle : Inv { s with
        rxState := .idle, rxResult := .timeout, irqStatus := s.irqStatus ||| rxDoneBit } :=
      { h with cycle := nofun, completed := nofun }
    exact hidle.raise _ _ _

/-- From the first accepted datagram on the latched offset belongs to the latched count (R39), both cut to
16 bits (log 10). -/
theorem latch (h : Inv s) (seq : Half) (hdr : Header) (descs : List Descriptor) :
    Inv (latchHeader hdr descs.length (payloadOffset descs)
      { s with rxSeqExpect := seq + 1, seqValid := true }) :=
  { h with
    noSeqYet := nofun
    latched := fun _ => by
      simp [payloadOffset, BitVec.ofNat_add, BitVec.ofNat_mul] }

/-- Sequence bookkeeping and header latch go together: `SEQ_VALID` is set by the one, and what it promises is
latched by the other (R206, R207). -/
theorem latchHeader_trackSeq (h : Inv s) (seq : Half) (hdr : Header) (descs : List Descriptor) :
    Inv (latchHeader hdr descs.length (payloadOffset descs) (trackSeq seq s)) := by
  unfold trackSeq
  split
  · exact latch (raise (s := { s with rxGapCnt := s.rxGapCnt + 1 }) { h with } .seqGap 0 seq) seq hdr descs
  · exact h.latch seq hdr descs

theorem completeOn (h : Inv s) (marker : BitVec 1) : Inv (completeOn marker s) := by
  unfold Machine.completeOn
  split
  · exact { h with cycle := nofun, completed := fun _ => rfl }
  · exact h

/-- The scatter write stays inside the frame, and so inside the largest geometry (R75, R83). -/
theorem acceptDatagram (h : Inv s) {d : List Byte} {hdr : Header} {descs : List Descriptor}
    (hacc : acceptedAs s d hdr descs) : Inv (acceptDatagram d hdr descs (payloadOffset descs) s) := by
  obtain ⟨-, -, hfits⟩ := hacc
  have hin : insideBuffer (scatter (stride s) d descs (payloadOffset descs) s.rxfb) = true :=
    insideBuffer_scatter _ _ _ _ h.rxInside fun D hD =>
      (descriptorFits_end_le (hfits D hD)).trans (fbBytes_le_largest s)
  have hwf := scatter_wf (stride s) d descs (payloadOffset descs) h.rxCanonical
  have hlatched := h.latchHeader_trackSeq hdr.seq hdr descs
  exact ((hlatched.setBuffer .rxfb hwf hin).countAccepted _).completeOn _

theorem rxpkt (h : Inv s) (d : List Byte) : Inv (rxpkt d s) := by
  rcases rxpkt_cases d s with ⟨-, heq⟩ | ⟨-, r, idx, heq⟩ | ⟨-, hdr, descs, payoff, -, -, heq⟩
    | ⟨-, hdr, descs, payoff, hd, hn, hg, heq⟩ <;> rw [heq]
  · exact h
  · exact (h.drop r).raise _ _ _
  · exact (h.drop .nonmatch).raise _ _ _
  · obtain ⟨-, -, -, -, rfl⟩ := dech_ok hd
    exact h.acceptDatagram ((acceptedAs_iff s d hdr descs).mpr ⟨hd, hn, hg⟩)

/-! ## Every step -/

theorem command (h : Inv s) (c : Byte) : Inv (command c s) := by
  rcases command_cases c s with ⟨-, heq⟩ | ⟨-, heq⟩ | ⟨-, heq⟩ | ⟨-, heq⟩ | ⟨-, heq⟩ | ⟨-, heq⟩ <;> rw [heq]
  · exact h
  · exact h.txframe
  · exact h.rxframe
  · exact h.rxrel
  · exact h.resetRegs
  · exact h.raise _ _ _

theorem after (h : Inv s) (i : Instr) : Inv (after i s) := by
  rcases after_cases i s with e | ⟨o, e⟩ | ⟨line, last, ts, ssrc, n, o, -, e⟩ | ⟨a, e, -⟩ | ⟨d, -, e⟩
    | ⟨c, -, e⟩ | ⟨code, -, e⟩ | ⟨-, e⟩ | ⟨r, v, -, -, -, e⟩ | ⟨r, v, -, -, hl, e⟩ | ⟨r, v, -, -, e⟩ <;>
    rw [e]
  · exact h
  · exact h.handOut o
  · exact h.enchAdvance.handOut o
  · exact h.txline a
  · exact h.rxpkt d
  · exact h.command c
  · exact h.raise _ _ _
  · exact h.rxtmo
  · exact h.raise _ _ _
  · exact h.storeReg v hl
  · exact h.clearReg r v

end Inv

/-- Settles O59: each kind of agenda entry keeps the invariant, a step of the table by what it does to the state. -/
theorem everyStepKeepsTheInvariant : Obligations.EveryStepKeepsTheInvariant := by
  intro s t h hstep
  rcases step_cases hstep with ⟨-, rfl⟩ | ⟨rest, ⟨b, i, -, -, -, rfl⟩ | ⟨sp, a, bytes, -, hin, rfl⟩
    | ⟨sp, a, n, -, -, rfl⟩ | ⟨-, rfl⟩⟩
  · exact h
  · exact (h.setAgenda rest).after i
  · rw [← buffer_agenda sp s rest]
    exact (h.setAgenda rest).memWrite_buffer sp hin
  · exact ((h.setAgenda rest).setDraws _).handOut _
  · exact (h.setAgenda rest).hardReset

end Sys2Proof.Machine
end

section
/-! SUPPORT. The fragmenter (41_fragmenter): what `TXFRAME` answers (R170), the packet and the state of one `TXLINE`
step (R174 to R179), the emitted-word rows (R108), and the steps that are not enabled (R173). -/

namespace Sys2Proof.Machine

/-! ## `raise` in the words of R252 -/

/-- The fields `raise` writes, `ERR_INFO` as one number. -/
theorem raise_eq (e : Exc) (sub : BitVec 8) (info : Half) (s : State) :
    raise e sub info s = { s with
      errStatus := s.errStatus ||| BitVec.twoPow 32 (excCode e)
      errInfo := errInfoOf info.toNat sub.toNat (excCode e) } := by
  have hcode : (BitVec.ofNat 8 (excCode e)).toNat = excCode e := by cases e <;> rfl
  rw [raise, errInfoWord_eq, hcode]

/-! ## `TXFRAME` (R170) -/

/-- Settles O19: the first of the three tests of R170 that fails raises its exception, and where none fails the pass
starts. -/
theorem txframeStartsAPassOrIsRefused : Obligations.TxframeStartsAPassOrIsRefused := by
  intro s
  simp only [exec_eq_after, after, txframe]
  refine ⟨fun hb => ?_, fun hb hgeom => ?_,
    fun hb hw hh (hcap : 20 + stride s > s.cfg.maxDatagram) => ?_,
    fun hb hw hh (hcap : 20 + stride s ≤ s.cfg.maxDatagram) => ?_⟩
  · rw [if_pos hb, raise_eq]
    rfl
  · rw [if_neg (by simp [hb]), if_pos hgeom, raise_eq]
    rfl
  · rw [if_neg (by simp [hb]), if_neg (not_or.mpr ⟨hw, hh⟩), if_pos hcap, raise_eq]
    rfl
  · rw [if_neg (by simp [hb]), if_neg (not_or.mpr ⟨hw, hh⟩), if_neg (Nat.not_lt.mpr hcap)]

/-! ## The packet of a scanline (R175, R176) -/

theorem isLastLine_eq (s : State) : isLastLine s = (s.txLine.toNat + 1 == s.height.toNat) :=
  (beq_eq_decide _ _).symm

theorem emittedHeader_linePacket (s : State) :
    emittedHeader (linePacket s) (s.txLine.toNat + 1 == s.height.toNat) s.seq s.ts s.ssrc
      (2 * s.width.toNat) s.txLine.toNat := by
  have hwidth := s.width.isLt
  have hrow : (BitVec.ofNat 16 (stride s)).toNat = 2 * s.width.toNat := by
    rw [BitVec.toNat_ofNat, stride]
    omega
  have hlast : (BitVec.ofBool (isLastLine s) == 1) = (s.txLine.toNat + 1 == s.height.toNat) := by
    rw [← isLastLine_eq]
    cases isLastLine s <;> rfl
  rw [← hlast, ← hrow]
  exact emittedHeader_headerBytes_append ..

theorem emittedRow_linePacket (s : State) : emittedRow s (linePacket s) s.txLine.toNat := by
  constructor
  · rw [linePacket, List.length_append, enchHeader, headerBytes_length, gatherRow, memRead_length, stride]
  · intro j b hj hb
    rw [linePacket, List.getElem?_append_right (by simp [enchHeader])]
    simpa [enchHeader, gatherRow] using memRead_written s.txfb (stride s) (rowAddr s) s.draws j b hj hb

/-! ## One `TXLINE` step during a pass (R174) -/

section
variable {s : State} (hb : s.txBusy = true)
include hb

theorem txline_fail :
    txline .fail s = raise .sendFailure 0 s.txLine (endPass .sendFailure (emitLine .fail s)) := by
  simp [txline, hb]

theorem txline_ok_of_more (hl : s.txLine.toNat + 1 ≠ s.height.toNat) :
    txline .ok s = { emitLine .ok s with txLine := s.txLine + 1 } := by
  simp [txline, hb, isLastLine, hl]

theorem txline_ok_of_last (hl : s.txLine.toNat + 1 = s.height.toNat) :
    txline .ok s = endPass .ok { emitLine .ok s with txLine := s.txLine + 1 } := by
  simp [txline, hb, isLastLine, hl]

/-- Whatever the sink answers, the one thing handed out is the packet (R174). -/
theorem txline_out (answer : SinkAnswer) :
    (txline answer s).out = s.out ++ [.sent (linePacket s) answer] := by
  rcases txline_cases answer s with ⟨hidle, -⟩ | ⟨-, rfl, e⟩ | ⟨-, rfl, -, e⟩ | ⟨-, rfl, -, e⟩
  · exact absurd (hidle.symm.trans hb) nofun
  all_goals rw [e]; rfl

end

/-- Settles O20: the packet is `linePacket`, and each answer's step is written out field by field. -/
theorem txlineSendsOneScanline : Obligations.TxlineSendsOneScanline := by
  intro s hb
  refine ⟨linePacket s, (gatherRow s).2, emittedHeader_linePacket s, emittedRow_linePacket s, ?_,
    fun hmore => ?_, fun hlast => ?_⟩
  · rw [exec_eq_after, after, txline_fail hb, raise_eq]
    rfl
  · rw [exec_eq_after, after, txline_ok_of_more hb hmore]
    rfl
  · rw [exec_eq_after, after, txline_ok_of_last hb hlast]
    rfl

/-! ## The emitted-word rows (R108; log 13) -/

theorem txlineEmitting_of_next {last : Bool} {s : State}
    (hl : (s.txLine.toNat + 1 == s.height.toNat) = last) (answer : SinkAnswer) :
    txlineEmitting last s.seq answer s = txline answer s :=
  if_pos ⟨(isLastLine_eq s).trans hl, rfl⟩

/-- The row with the word of the next packet is the `TXLINE` step, whose packet begins with it. -/
theorem emittedWordRow_is_txline {last : Bool} {s : State} {i : Instr} {answer : SinkAnswer}
    (hb : s.txBusy = true) (hl : (s.txLine.toNat + 1 == s.height.toNat) = last)
    (hi : after i s = txlineEmitting last s.seq answer s) :
    ∃ t pkt, exec i s = .next t ∧ exec (.txline answer) s = .next t
      ∧ t.out = s.out ++ [.sent pkt answer]
      ∧ (rd32 pkt 0).toNat = (if last then 0x80E00000 else 0x80600000) + s.seq.toNat := by
  obtain ⟨hword, -⟩ := emittedHeader_linePacket s
  rw [hl] at hword
  exact ⟨txline answer s, linePacket s, by rw [exec_eq_after, hi, txlineEmitting_of_next hl],
    exec_eq_after _ s, txline_out hb answer, hword⟩

/-- Settles O21: `PKT.LINE` is the row of every scanline but the last, `PKT.LAST` that of the last. -/
theorem emittedWordRowsAreTxlineSteps : Obligations.EmittedWordRowsAreTxlineSteps := by
  intro s answer hb
  exact ⟨fun hmore => emittedWordRow_is_txline hb (beq_false_of_ne hmore) rfl,
    fun hlast => emittedWordRow_is_txline hb (beq_of_eq hlast) rfl⟩

/-! ## Steps that are not enabled (R173, R194, R212; log 6) -/

theorem txline_of_idle {s : State} (hb : s.txBusy = false) (answer : SinkAnswer) : txline answer s = s :=
  if_neg (by simp [hb])

/-- No pass, the other marker or another sequence number: the word is no step. -/
theorem txlineEmitting_of_not_enabled {last : Bool} {seq : Half} {s : State}
    (h : s.txBusy = false ∨ (s.txLine.toNat + 1 == s.height.toNat) ≠ last ∨ seq ≠ s.seq)
    (answer : SinkAnswer) : txlineEmitting last seq answer s = s := by
  by_cases hnext : isLastLine s = last ∧ s.seq = seq
  · rw [txlineEmitting, if_pos hnext]
    refine txline_of_idle (h.resolve_right ?_) answer
    rintro (hl | hseq)
    · exact hl (isLastLine_eq s ▸ hnext.1)
    · exact hseq hnext.2.symm
  · exact if_neg hnext

theorem rxtmo_of_not_enabled {s : State} (h : s.rxState ≠ .receiving ∨ s.rxTimeout = 0) : rxtmo s = s := by
  rcases rxtmo_cases s with e | ⟨hr, ht, -⟩
  · exact e
  · rcases h with h | h
    · exact absurd hr h
    · exact absurd h ht

/-- Settles O34: each engine's step tests that it is enabled before it does anything. -/
theorem enginesWithoutAnEnabledStepWait : Obligations.EnginesWithoutAnEnabledStepWait := by
  intro s answer seq d i
  refine ⟨fun hb => ?_, fun h => ?_, fun h => ?_, fun hr hi => ?_, fun h => ?_⟩
  · rw [exec_eq_after, after, txline_of_idle hb]
  · have hother := h.imp_right (Or.imp_left fun hlast => ne_false_of_eq_true (beq_of_eq hlast))
    rw [exec_eq_after, after, txlineEmitting_of_not_enabled hother]
  · have hother := h.imp_right (Or.imp_left fun hmore => ne_true_of_eq_false (beq_false_of_ne hmore))
    rw [exec_eq_after, after, txlineEmitting_of_not_enabled hother]
  · rw [exec_of_offers hi, rxpkt, if_neg hr]
  · rw [exec_eq_after, after, rxtmo_of_not_enabled h]

end Sys2Proof.Machine
end

section
/-! SUPPORT. The run of a pass with the steps of other agents in it (41_fragmenter R178, R181): where the machine
stands after a part of the run in which the sink answered `OK`, and the step that ends the pass. -/

namespace Sys2Proof.Machine

/-! ## A `TXLINE` entry -/

theorem entryStep_stepTx (answer : SinkAnswer) : entryStep (Script.stepTx answer) = some (.txline answer) := by
  rw [Script.stepTx, entryStep, decode_encode rfl]

theorem stepOn_stepTx (answer : SinkAnswer) (s : State) :
    stepOn (Script.stepTx answer) s = .next (txline answer s) :=
  stepOn_of_entryStep (entryStep_stepTx answer) rfl

/-- A `TXLINE` step is not one of another agent. -/
theorem besidePass_ne_stepTx {cfg : Config} {e : Event} (h : besidePass cfg e = true) (answer : SinkAnswer) :
    e ≠ Script.stepTx answer := by
  rintro rfl
  simp [besidePass, entryStep_stepTx, buildsHeader] at h

theorem sentPackets_of_out {s t : State} {p : List Byte} {answer : SinkAnswer}
    (h : t.out = s.out ++ [.sent p answer]) : sentPackets t = sentPackets s ++ [(p, answer)] := by
  simp [sentPackets, h]

/-- The marker is bit 23 of the protocol word (R102, R108). -/
theorem marker_clear {w : Word} {seq : Half}
    (h : w.toNat = (if false then 0x80E00000 else 0x80600000) + seq.toNat) : w.getLsbD 23 = false := by
  have hseq := seq.isLt
  rw [if_neg Bool.false_ne_true] at h
  rw [BitVec.getLsbD, Nat.testBit_eq_decide_div_mod_eq, h, decide_eq_false_iff_not]
  omega

/-! ## The packets of a longer run -/

/-- Where one list longer by an entry is cut: at that entry, or inside the shorter list. -/
theorem snoc_eq_append_cons {α : Type} {es a b : List α} {e x : α} (h : es ++ [e] = a ++ x :: b) :
    (a = es ∧ x = e) ∨ ∃ b', es = a ++ x :: b' := by
  rcases List.eq_nil_or_concat b with rfl | ⟨b', y, rfl⟩
  · obtain ⟨rfl, hx⟩ := List.append_inj' h rfl
    exact .inl ⟨rfl, (List.singleton_inj.mp hx).symm⟩
  · rw [List.concat_eq_append, ← List.cons_append, ← List.append_assoc] at h
    exact .inr ⟨b', List.append_inj_left' h rfl⟩

/-- What `passSends` asks for one `TXLINE` step, after the entries `a` of a pass that began in `s`. -/
def sendsAfter (s : State) (a : List Event) (pkts : List (List Byte)) : Prop :=
  let k := a.count (Script.stepTx .ok)
  ∃ (u v : State) (p : List Byte), runAll a s = .next u ∧ runAll (a ++ [Script.stepTx .ok]) s = .next v
    ∧ v.out = u.out ++ [.sent p .ok] ∧ pkts[k]? = some p
    ∧ emittedHeader p (k + 1 == s.height.toNat) (s.seq + BitVec.ofNat 16 k) s.ts s.ssrc
        (2 * s.width.toNat) k
    ∧ emittedRow u p k

theorem passSends_iff (s : State) (es : List Event) (pkts : List (List Byte)) :
    passSends s es pkts ↔ ∀ a b, es = a ++ Script.stepTx .ok :: b → sendsAfter s a pkts := Iff.rfl

theorem sendsAfter_append {s : State} {a : List Event} {pkts : List (List Byte)} (h : sendsAfter s a pkts)
    (more : List (List Byte)) : sendsAfter s a (pkts ++ more) := by
  obtain ⟨u, v, p, hu, hv, hout, hp, hrest⟩ := h
  exact ⟨u, v, p, hu, hv, hout, by rw [List.getElem?_append_left (List.getElem?_eq_some_iff.mp hp).1, hp],
    hrest⟩

/-- A step of another agent sends nothing. -/
theorem passSends_snoc_beside {s : State} {es : List Event} {e : Event} {pkts : List (List Byte)}
    (h : passSends s es pkts) (he : e ≠ Script.stepTx .ok) : passSends s (es ++ [e]) pkts := by
  rw [passSends_iff] at h ⊢
  intro a b hab
  rcases snoc_eq_append_cons hab with ⟨-, hx⟩ | ⟨b', hes⟩
  · exact absurd hx.symm he
  · exact h a b' hes

theorem passSends_snoc_stepTx {s : State} {es : List Event} {pkts : List (List Byte)} {p : List Byte}
    (h : passSends s es pkts) (hlast : sendsAfter s es (pkts ++ [p])) :
    passSends s (es ++ [Script.stepTx .ok]) (pkts ++ [p]) := by
  rw [passSends_iff] at h ⊢
  intro a b hab
  rcases snoc_eq_append_cons hab with ⟨rfl, -⟩ | ⟨b', hes⟩
  · exact hlast
  · exact sendsAfter_append (h a b' hes) [p]

/-! ## Part of a pass -/

/-- After the entries `es` the pass that began in `s` is in flight in `u`, and the packets `pkts` have been
accepted, one for each scanline so far, none of them the last. -/
structure PassRun (s : State) (es : List Event) (u : State) (pkts : List (List Byte)) : Prop where
  run : runAll es s = .next u
  busy : u.txBusy = true
  line : u.txLine.toNat = pkts.length
  seq : u.seq = s.seq + BitVec.ofNat 16 pkts.length
  width : u.width = s.width
  height : u.height = s.height
  ssrc : u.ssrc = s.ssrc
  ts : u.ts = s.ts
  tick : u.tsTick = s.tsTick
  cfg : u.cfg = s.cfg
  sent : sentPackets u = sentPackets s ++ pkts.map (fun p => (p, .ok))
  count : es.count (Script.stepTx .ok) = pkts.length
  sends : passSends s es pkts
  unmarked : ∀ p ∈ pkts, (rd32 p 0).getLsbD 23 = false

namespace PassRun

theorem nil {s : State} (hb : s.txBusy = true) (hl : s.txLine = 0) : PassRun s [] s [] where
  run := rfl
  busy := hb
  line := congrArg BitVec.toNat hl
  seq := (BitVec.add_zero _).symm
  width := rfl
  height := rfl
  ssrc := rfl
  ts := rfl
  tick := rfl
  cfg := rfl
  sent := (List.append_nil _).symm
  count := rfl
  sends := fun a b h => by simp at h
  unmarked := nofun

variable {s u : State} {es : List Event} {pkts : List (List Byte)} (h : PassRun s es u pkts)
include h

/-- A step of another agent leaves the pass where it is. -/
theorem snoc_beside {e : Event} (he : besidePass s.cfg e = true) : ∃ v, PassRun s (es ++ [e]) v pkts := by
  obtain ⟨v, hv, hk, -⟩ := stepOn_besidePass h.busy (h.cfg.symm ▸ he)
  have hne := besidePass_ne_stepTx he .ok
  exact ⟨v, {
    run := runAll_snoc h.run hv
    busy := hk.busy.trans h.busy
    line := hk.line.symm ▸ h.line
    seq := hk.seq.trans h.seq
    width := hk.width.trans h.width
    height := hk.height.trans h.height
    ssrc := hk.ssrc.trans h.ssrc
    ts := hk.ts.trans h.ts
    tick := hk.tick.trans h.tick
    cfg := hk.cfg.trans h.cfg
    sent := hk.sent.trans h.sent
    count := by rw [List.count_append, h.count, List.count_singleton, if_neg (by simpa using hne), Nat.add_zero]
    sends := passSends_snoc_beside h.sends hne
    unmarked := h.unmarked }⟩

/-- The header of the packet that comes next (R181). -/
theorem header_next :
    emittedHeader (linePacket u) (pkts.length + 1 == s.height.toNat) (s.seq + BitVec.ofNat 16 pkts.length)
      s.ts s.ssrc (2 * s.width.toNat) pkts.length := by
  have hheader := emittedHeader_linePacket u
  rwa [h.line, h.seq, h.width, h.height, h.ssrc, h.ts] at hheader

/-- The `TXLINE` step with the answer `OK` hands over the packet that comes next, on the last scanline and on any
other. -/
theorem passSends_next : passSends s (es ++ [Script.stepTx .ok]) (pkts ++ [linePacket u]) := by
  refine passSends_snoc_stepTx h.sends ⟨u, txline .ok u, linePacket u, h.run,
    runAll_snoc h.run (stepOn_stepTx .ok u), txline_out h.busy .ok, ?_, ?_, ?_⟩ <;> rw [h.count]
  · exact List.getElem?_concat_length
  · exact h.header_next
  · exact h.line ▸ emittedRow_linePacket u

theorem sent_next (answer : SinkAnswer) :
    sentPackets (txline answer u)
      = sentPackets s ++ pkts.map (fun p => (p, .ok)) ++ [(linePacket u, answer)] := by
  rw [sentPackets_of_out (txline_out h.busy answer), h.sent]

theorem seq_next : u.seq + 1 = s.seq + BitVec.ofNat 16 (pkts.length + 1) := by
  rw [h.seq, BitVec.add_assoc, BitVec.ofNat_add]
  rfl

/-- A scanline other than the last is sent without the marker, and the pass goes on. -/
theorem snoc_stepTx (hmore : pkts.length + 1 < s.height.toNat) :
    PassRun s (es ++ [Script.stepTx .ok]) (txline .ok u) (pkts ++ [linePacket u]) := by
  have hline : u.txLine.toNat < u.height.toNat := by rw [h.line, h.height]; omega
  have hstep : txline .ok u = { emitLine .ok u with txLine := u.txLine + 1 } :=
    txline_ok_of_more h.busy (by rw [h.line, h.height]; omega)
  have hmarker : (rd32 (linePacket u) 0).getLsbD 23 = false := by
    obtain ⟨hword, -⟩ := h.header_next
    rw [beq_false_of_ne hmore.ne] at hword
    exact marker_clear hword
  have hlength : (pkts ++ [linePacket u]).length = pkts.length + 1 := List.length_append
  have hrun := runAll_snoc h.run (stepOn_stepTx .ok u)
  have hsent := h.sent_next .ok
  rw [hstep] at hrun hsent ⊢
  exact {
    run := hrun
    busy := h.busy
    line := by rw [hlength, ← h.line]; exact succ_toNat_of_lt hline
    seq := by rw [hlength]; exact h.seq_next
    width := h.width
    height := h.height
    ssrc := h.ssrc
    ts := h.ts
    tick := h.tick
    cfg := h.cfg
    sent := by rw [hsent, List.map_append, List.append_assoc]; rfl
    count := by rw [List.count_append, h.count, List.count_singleton_self, hlength]
    sends := h.passSends_next
    unmarked := fun p hp => by
      rcases List.mem_append.mp hp with hp | hp
      · exact h.unmarked p hp
      · rw [List.mem_singleton.mp hp, hmarker] }

end PassRun

/-- Before the last scanline a run of a pass completes, whatever the other agents do. -/
theorem exists_passRun {s : State} (hb : s.txBusy = true) (hl : s.txLine = 0) (es : List Event)
    (hes : ∀ e ∈ es, e = Script.stepTx .ok ∨ besidePass s.cfg e = true)
    (hn : es.count (Script.stepTx .ok) < s.height.toNat) : ∃ u pkts, PassRun s es u pkts := by
  induction es using List.reverseRecOn with
  | nil => exact ⟨s, [], .nil hb hl⟩
  | append_singleton es e ih =>
    rw [List.count_append] at hn
    obtain ⟨u, pkts, h⟩ := ih (fun x hx => hes x (List.mem_append_left _ hx)) (by omega)
    rcases hes e (List.mem_append_right _ (List.mem_singleton_self e)) with rfl | he
    · refine ⟨_, _, h.snoc_stepTx ?_⟩
      rwa [h.count, List.count_singleton_self] at hn
    · obtain ⟨v, hv⟩ := h.snoc_beside he
      exact ⟨v, pkts, hv⟩

/-! ## The end of the pass -/

/-- Settles O22: the run up to the last scanline is a `PassRun`, and the last `TXLINE` step ends the pass. -/
theorem passSendsEveryScanlineInOrder : Obligations.PassSendsEveryScanlineInOrder := by
  intro s es hb hl _ hes hcount
  obtain ⟨u, pkts, h⟩ := exists_passRun hb hl es hes (by omega)
  have hlast : pkts.length + 1 = s.height.toNat := h.count ▸ hcount
  have hline : u.txLine.toNat + 1 = u.height.toNat := by rw [h.line, h.height, hlast]
  have hstep : txline .ok u = endPass .ok { emitLine .ok u with txLine := u.txLine + 1 } :=
    txline_ok_of_last h.busy hline
  refine ⟨txline .ok u, pkts ++ [linePacket u], runAll_snoc h.run (stepOn_stepTx .ok u), ?_, ?_,
    h.passSends_next, ?_, ?_, ?_, by rw [hstep]; rfl, by rw [hstep]; rfl⟩
  · rw [h.sent_next, List.map_append, List.append_assoc]
    rfl
  · rw [List.length_append, List.length_singleton, hlast]
  · have hheight : BitVec.ofNat 16 (pkts.length + 1) = s.height := by
      rw [hlast, BitVec.ofNat_toNat, BitVec.setWidth_eq]
    rw [hstep, ← hheight, ← h.seq_next]
    rfl
  · rw [hstep, ← h.ts, ← h.tick]
    rfl
  · rw [hstep, ← h.height]
    exact BitVec.eq_of_toNat_eq ((succ_toNat_of_lt (Nat.lt_of_succ_le hline.le)).trans hline)

/-- Settles O23: the run before the refused scanline is a `PassRun`, and the refused `TXLINE` step ends the pass. -/
theorem failedPassUsesUpItsSequenceNumbers : Obligations.FailedPassUsesUpItsSequenceNumbers := by
  intro s es n hb hl hn hes hcount
  obtain ⟨u, pkts, h⟩ := exists_passRun hb hl es hes (hcount.symm ▸ hn)
  obtain rfl : pkts.length = n := h.count ▸ hcount
  have hstep := txline_fail h.busy
  refine ⟨txline .fail u, pkts, linePacket u, runAll_snoc h.run (stepOn_stepTx .fail u), h.sent_next .fail, rfl,
    h.sends, h.unmarked, ?_, ?_, ?_, by rw [hstep]; rfl, by rw [hstep]; rfl, ?_⟩
  · rw [hstep, ← h.seq_next]
    rfl
  · rw [hstep, ← h.ts, ← h.tick]
    rfl
  · rw [hstep]
    exact h.line
  · rw [hstep, raise_eq, h.line]
    rfl

end Sys2Proof.Machine
end

section
/-! SUPPORT. The reassembler (42_reassembler): what `RXFRAME` (R190), `RXTMO` (R212) and `RXREL` (R215) answer, each
way one `RXPKT` step can go (R195 to R211), and the transitions of `RX_STATUS.STATE` (R216). -/

namespace Sys2Proof.Machine

/-! ## `RXFRAME`, `RXTMO` and `RXREL` (R190, R212, R215) -/

/-- Settles O24: the first of the two tests of R190 that fails raises its exception, and where none fails the cycle
starts. -/
theorem rxframeStartsACycleOrIsRefused : Obligations.RxframeStartsACycleOrIsRefused := by
  intro s
  simp only [exec_eq_after, after, rxframe]
  refine ⟨fun hr => ?_, fun hr hgeom => ?_, fun hr hw hh => ?_⟩
  · rw [if_pos hr, raise_eq]
    rfl
  · rw [if_neg (not_not.mpr hr), if_pos hgeom, raise_eq]
    rfl
  · rw [if_neg (not_not.mpr hr), if_neg (not_or.mpr ⟨hw, hh⟩)]

/-- Settles O32: the step is enabled, and `INFO` is the low half of `RX_PKT_CNT`. -/
theorem rxtmoEndsTheCycle : Obligations.RxtmoEndsTheCycle := by
  intro s hr ht
  have henabled : timeoutEnabled s = true := by
    rw [timeoutEnabled, Bool.and_eq_true, beq_iff_eq, bne_iff_ne]
    exact ⟨hr, ht⟩
  have hinfo : (s.rxPktCnt.extractLsb' 0 16).toNat = s.rxPktCnt.toNat % 65536 := by
    rw [extract_toNat, Nat.pow_zero, Nat.div_one]
    rfl
  rw [exec_eq_after, after, rxtmo, if_pos henabled, raise_eq, hinfo]
  rfl

/-- Settles O33: `RXREL` tests for Complete, and raises `BAD_CMD` in any other state. -/
theorem rxrelReleasesACompletedFrame : Obligations.RxrelReleasesACompletedFrame := by
  intro s
  simp only [exec_eq_after, after, rxrel]
  refine ⟨fun hc => by rw [if_pos hc], fun hc => ?_⟩
  rw [if_neg hc, raise_eq]
  rfl

/-! ## A dropped datagram (R197, R199, R201, R202, R205) -/

/-- The fields a drop as malformed writes, `ERR_INFO` as one number. -/
theorem dropMalformed_eq (r : DropReason) (idx : Nat) (s : State) :
    dropMalformed r idx s = { s with
      rxDropCnt := s.rxDropCnt + 1, lastDrop := some r
      errStatus := s.errStatus ||| 0x2
      errInfo := errInfoOf (BitVec.ofNat 16 idx).toNat (dropCode r) 1 } := by
  have hsub : (BitVec.ofNat 8 (dropCode r)).toNat = dropCode r := by cases r <;> rfl
  rw [dropMalformed, raise_eq, hsub]
  rfl

theorem toNat_ofNat_half {n : Nat} (h : n < 65536) : (BitVec.ofNat 16 n).toNat = n := by
  rw [BitVec.toNat_ofNat]
  exact Nat.mod_eq_of_lt h

section
variable {s : State} {d : List Byte} (hr : s.rxState = .receiving)
include hr

theorem rxpkt_of_malformed {sub : DropReason} {idx : Nat} (hd : dech s.cfg d = .malformed sub idx) :
    rxpkt d s = dropMalformed sub idx s := by
  simp only [rxpkt, if_pos hr, receiveDatagram, hd]

theorem rxpkt_of_nonMatching {hdr : Header} {descs : List Descriptor} {payoff : Nat}
    (hd : dech s.cfg d = .ok hdr descs payoff) (hn : rejectedByValidation s hdr) :
    rxpkt d s = raise .nonmatch 0 (hdr.w0.extractLsb' 16 16) (drop .nonmatch s) := by
  simp only [rxpkt, if_pos hr, receiveDatagram, hd, if_pos ((nonMatching_iff hdr s).mpr hn)]

theorem rxpkt_of_geometryFault {hdr : Header} {descs : List Descriptor} {payoff : Nat} {sub : DropReason}
    {idx : Nat} (hd : dech s.cfg d = .ok hdr descs payoff) (hn : ¬ rejectedByValidation s hdr)
    (hg : geometryFault (stride s) s.height.toNat descs 0 = some (sub, idx)) :
    rxpkt d s = dropMalformed sub idx s := by
  have hn : ¬ nonMatching hdr s = true := mt (nonMatching_iff hdr s).mp hn
  simp only [rxpkt, if_pos hr, receiveDatagram, hd, if_neg hn, hg]

end

/-- The four structural faults, and that an index is bounded by the datagram's length. -/
theorem dech_malformed_reason {cfg : Config} {d : List Byte} {sub : DropReason} {idx : Nat}
    (h : dech cfg d = .malformed sub idx) :
    (sub, dropCode sub) ∈ [(DropReason.short, 1), (.tooMany, 2), (.chain, 3), (.payload, 4)]
      ∧ idx ≤ d.length := by
  rcases Nat.lt_or_ge d.length 20 with hshort | hlen
  · rw [dech_of_short hshort] at h
    injection h with hsub hidx
    subst hsub hidx
    exact ⟨by decide, Nat.zero_le _⟩
  · rcases dechReportsTheFirstStructuralFault cfg d sub idx h hlen with
      ⟨rfl, -, hend, -⟩ | ⟨rfl, -, -, hend, -⟩ | ⟨rfl, descs, hidx, -, -, -, hend⟩
    all_goals exact ⟨by decide, by omega⟩

/-- Settles O25: `DECH` reports one of its four faults, at an index below the datagram's length. -/
theorem rxpktDropsMalformedDatagrams : Obligations.RxpktDropsMalformedDatagrams := by
  intro s d i sub idx hr hi hd
  obtain ⟨hcode, hidx⟩ := dech_malformed_reason hd
  refine ⟨dropCode sub, BitVec.ofNat 16 idx, hcode, fun hlen => toNat_ofNat_half (by omega), ?_⟩
  rw [exec_of_offers hi, rxpkt_of_malformed hr hd, dropMalformed_eq]

/-! ## The geometry check (R201, R202) -/

/-- The check goes past the descriptors that fit. -/
theorem geometryFault_drop {rowStride height : Nat} (n : Nat) : ∀ {ds : List Descriptor} (i : Nat),
    (∀ k E, k < n → ds[k]? = some E →
      E.line.toNat < height ∧ E.offset.toNat * 2 + E.length.toNat ≤ rowStride) →
    geometryFault rowStride height ds i = geometryFault rowStride height (ds.drop n) (i + n) := by
  induction n with
  | zero => exact fun _ _ => rfl
  | succ n ih =>
    intro ds i hfits
    cases ds with
    | nil => rfl
    | cons D ds =>
      obtain ⟨hline, hspan⟩ := hfits 0 D n.succ_pos rfl
      rw [geometryFault, if_neg (Nat.not_le.mpr hline), if_neg (Nat.not_lt.mpr hspan),
        ih (i + 1) fun k E hk hE => hfits (k + 1) E (Nat.succ_lt_succ hk) hE, List.drop_succ_cons,
        Nat.add_assoc, Nat.add_comm 1]

/-- After descriptors that fit, the check reaches the next one. -/
theorem geometryFault_at {rowStride height n : Nat} {ds : List Descriptor} {D : Descriptor}
    (hD : ds[n]? = some D)
    (hfits : ∀ k E, k < n → ds[k]? = some E →
      E.line.toNat < height ∧ E.offset.toNat * 2 + E.length.toNat ≤ rowStride) :
    geometryFault rowStride height ds 0 = geometryFault rowStride height (D :: ds.drop (n + 1)) n := by
  obtain ⟨hn, rfl⟩ := List.getElem?_eq_some_iff.mp hD
  rw [geometryFault_drop n 0 hfits, Nat.zero_add, List.drop_eq_getElem_cons hn]

/-- The check reports `LINE` or `SPAN` and no other reason. -/
theorem geometryFault_reason {rowStride height : Nat} {ds : List Descriptor} :
    ∀ {i : Nat} {sub : DropReason} {idx : Nat}, geometryFault rowStride height ds i = some (sub, idx) →
      sub = .line ∨ sub = .span := by
  induction ds with
  | nil => nofun
  | cons D ds ih =>
    intro i sub idx h
    rw [geometryFault] at h
    split at h
    · injection h with h
      exact .inl (congrArg Prod.fst h).symm
    · split at h
      · injection h with h
        exact .inr (congrArg Prod.fst h).symm
      · exact ih h

/-- Settles O27: the check goes past the descriptors that fit and reports the first one that does not. -/
theorem rxpktDropsDatagramsOutsideTheGeometry : Obligations.RxpktDropsDatagramsOutsideTheGeometry := by
  intro s d i hdr descs payoff n D hr hi hd hn hD hfits
  have hbound : 6 * n < d.length := by
    obtain ⟨hoff, -⟩ := dechReadsTheChainToItsEnd _ _ _ _ _ hd
    obtain ⟨hend, -⟩ := dechAcceptedStaysInsideTheDatagram _ _ _ _ _ hd
    obtain ⟨hlt, -⟩ := List.getElem?_eq_some_iff.mp hD
    omega
  have hcheck := geometryFault_at (rowStride := stride s) hD hfits
  rw [geometryFault] at hcheck
  refine ⟨BitVec.ofNat 16 n, fun hlen => toNat_ofNat_half (by omega), fun hline => ?_, fun hline hspan => ?_⟩
  · rw [if_pos hline] at hcheck
    rw [exec_of_offers hi, rxpkt_of_geometryFault hr hd hn hcheck, dropMalformed_eq]
    rfl
  · have hspan : D.offset.toNat * 2 + D.length.toNat > stride s := hspan
    rw [if_neg (Nat.not_le.mpr hline), if_pos hspan] at hcheck
    rw [exec_of_offers hi, rxpkt_of_geometryFault hr hd hn hcheck, dropMalformed_eq]
    rfl

/-! ## The scatter write (R208) -/

/-- A payload byte of descriptor `i` stands at its destination unless a later descriptor covers it. -/
theorem memGet_scatter_at (rowStride : Nat) (d : List Byte) : ∀ (ds : List Descriptor) (pos : Nat) (m : Memory)
    {i j : Nat} {D : Descriptor}, pos + totalLength ds ≤ d.length → ds[i]? = some D → j < D.length.toNat →
    (∀ k E, i < k → ds[k]? = some E →
      ¬ (dstAddr rowStride E ≤ dstAddr rowStride D + j
        ∧ dstAddr rowStride D + j < dstAddr rowStride E + E.length.toNat)) →
    memGet (scatter rowStride d ds pos m) (dstAddr rowStride D + j)
      = d[pos + totalLength (ds.take i) + j]? := by
  intro ds
  induction ds with
  | nil => intro pos m i j D _ hD; simp at hD
  | cons E ds ih =>
    intro pos m i j D hend hD hj hlater
    rw [totalLength] at hend
    rw [scatter]
    cases i with
    | zero =>
      obtain rfl : E = D := by simpa using hD
      have hlen : ((d.drop pos).take E.length.toNat).length = E.length.toNat := by
        rw [List.length_take, List.length_drop]
        omega
      have hin : dstAddr rowStride E ≤ dstAddr rowStride E + j
          ∧ dstAddr rowStride E + j < dstAddr rowStride E + E.length.toNat := by omega
      rw [memGet_scatter_outside _ _ _ _ _ _ fun F hF => ?_, memGet_memWrite, hlen, if_pos hin,
        Nat.add_sub_cancel_left, List.getElem?_take_of_lt hj, List.getElem?_drop]
      · rfl
      · obtain ⟨k, hk⟩ := List.getElem?_of_mem hF
        exact hlater (k + 1) F k.succ_pos hk
    | succ i =>
      rw [ih (pos + E.length.toNat) _ (by omega) hD hj fun k F hk hF =>
          hlater (k + 1) F (Nat.succ_lt_succ hk) hF,
        List.take_succ_cons, totalLength, Nat.add_assoc pos]

theorem scattered_scatter {s : State} {d : List Byte} {descs : List Descriptor}
    (hend : payloadOffset descs + totalLength descs ≤ d.length) :
    scattered s d descs (scatter (stride s) d descs (payloadOffset descs) s.rxfb) :=
  ⟨fun _ _ _ hD hj hlater => memGet_scatter_at _ _ _ _ _ hend hD hj hlater,
    fun _ hout => memGet_scatter_outside _ _ _ _ _ _ hout⟩

/-! ## An accepted datagram (R203, R206 to R211) -/

theorem seqGapSeen_iff (seq : Half) (s : State) :
    seqGapSeen seq s = true ↔ s.ctrl.getLsbD 1 = true ∧ s.seqValid = true ∧ seq ≠ s.rxSeqExpect := by
  simp [seqGapSeen, seqchkOn, and_assoc]

/-- The fields sequence bookkeeping writes. -/
theorem trackSeq_eq (seq : Half) (s : State) :
    trackSeq seq s = { s with
      rxGapCnt := if seqGapSeen seq s then s.rxGapCnt + 1 else s.rxGapCnt
      errStatus := if seqGapSeen seq s then s.errStatus ||| 0x400 else s.errStatus
      errInfo := if seqGapSeen seq s then errInfoOf seq.toNat 0 10 else s.errInfo
      rxSeqExpect := seq + 1, seqValid := true } := by
  unfold trackSeq
  cases seqGapSeen seq s with
  | false => rfl
  | true => rw [if_pos rfl, raise_eq]; rfl

/-- The fields a marker writes. -/
theorem completeOn_eq (marker : BitVec 1) (s : State) :
    completeOn marker s = { s with
      rxState := if marker = 1 then .complete else s.rxState
      rxResult := if marker = 1 then .complete else s.rxResult
      irqStatus := if marker = 1 then s.irqStatus ||| 2 else s.irqStatus } := by
  unfold completeOn
  by_cases hm : marker = 1
  · simp only [if_pos hm]; rfl
  · simp only [if_neg hm]

/-- Settles O28: sequence bookkeeping, latch, scatter write, statistics and completion, one after the other. -/
theorem rxpktAcceptsAndScattersADatagram : Obligations.RxpktAcceptsAndScattersADatagram := by
  intro s d i hdr descs hr hi hacc gap
  have ⟨hd, _⟩ := hacc
  obtain ⟨hend, -⟩ := dechAcceptedStaysInsideTheDatagram _ _ _ _ _ hd
  refine ⟨scatter (stride s) d descs (payloadOffset descs) s.rxfb, BitVec.ofNat 16 descs.length,
    BitVec.ofNat 16 (payloadOffset descs), scattered_scatter hend, fun hlen => ?_, ?_⟩
  · exact ⟨toNat_ofNat_half (by omega), toNat_ofNat_half (by rw [payloadOffset]; omega)⟩
  · have hgap : gap ↔ seqGapSeen hdr.seq s = true := (seqGapSeen_iff hdr.seq s).symm
    rw [exec_of_offers hi, rxpkt_of_acceptedAs hr hacc, acceptDatagram, completeOn_eq, trackSeq_eq]
    simp only [hgap, ← hr]
    rfl

/-! ## A datagram that passes validation (R199, R200) -/

/-- The ways a datagram that decodes and is not non-matching can go. -/
theorem rxpkt_cases_of_matching {s : State} {d : List Byte} {hdr : Header} {descs : List Descriptor}
    {payoff : Nat} (hr : s.rxState = .receiving) (hd : dech s.cfg d = .ok hdr descs payoff)
    (hn : ¬ rejectedByValidation s hdr) :
    (acceptedAs s d hdr descs ∧ rxpkt d s = acceptDatagram d hdr descs (payloadOffset descs) s)
    ∨ (¬ (∀ D ∈ descs, descriptorFits s D) ∧ ∃ sub idx, (sub = .line ∨ sub = .span)
        ∧ rxpkt d s = dropMalformed sub idx s) := by
  obtain ⟨-, -, -, -, rfl⟩ := dech_ok hd
  cases hg : geometryFault (stride s) s.height.toNat descs 0 with
  | none =>
    have hacc : acceptedAs s d hdr descs := ⟨hd, hn, (geometryFault_none _ _ _ 0).mp hg⟩
    exact .inl ⟨hacc, rxpkt_of_acceptedAs hr hacc⟩
  | some p =>
    refine .inr ⟨fun hfits => ?_, p.1, p.2, geometryFault_reason hg, rxpkt_of_geometryFault hr hd hn hg⟩
    have hnone := (geometryFault_none (stride s) _ _ 0).mpr hfits
    exact nomatch hg.symm.trans hnone

/-- An accepted datagram is no drop and raises at most `SEQ_GAP`. -/
theorem acceptDatagram_no_drop (d : List Byte) (hdr : Header) (descs : List Descriptor) (payoff : Nat)
    (s : State) :
    (acceptDatagram d hdr descs payoff s).errStatus.getLsbD 9 = s.errStatus.getLsbD 9
    ∧ (acceptDatagram d hdr descs payoff s).rxDropCnt = s.rxDropCnt
    ∧ (acceptDatagram d hdr descs payoff s).lastDrop = s.lastDrop := by
  rw [acceptDatagram, completeOn_eq, trackSeq_eq]
  refine ⟨?_, rfl, rfl⟩
  cases seqGapSeen hdr.seq s with
  | false => rfl
  | true => exact (BitVec.getLsbD_or ..).trans (Bool.or_false _)

/-- Settles O26: validation is the one check that drops as `NONMATCH`; the geometry check drops as malformed. -/
theorem rxpktDropsNonMatchingDatagrams : Obligations.RxpktDropsNonMatchingDatagrams := by
  intro s d i hdr descs payoff hr hi hd
  rw [exec_of_offers hi]
  refine ⟨fun hv hne => ?_, fun hmatch => ⟨rxpkt d s, rfl, ?_⟩⟩
  · have hinfo : (hdr.w0.extractLsb' 16 16).toNat = hdr.w0.toNat / 65536 := by
      have hw := hdr.w0.isLt
      rw [extract_toNat]
      omega
    rw [rxpkt_of_nonMatching hr hd ⟨hv, hne⟩, raise_eq, hinfo]
    rfl
  · have hn : ¬ rejectedByValidation s hdr := by
      rintro ⟨hv, hne⟩
      rcases hmatch with hoff | ⟨hversion, htype⟩
      · exact absurd (hoff.symm.trans hv) nofun
      · exact hne.elim (· hversion) (· htype)
    rcases rxpkt_cases_of_matching hr hd hn with ⟨-, e⟩ | ⟨hout, sub, idx, hsub, e⟩
    · obtain ⟨herr, hcnt, hlast⟩ := acceptDatagram_no_drop d hdr descs (payloadOffset descs) s
      rw [e]
      exact ⟨herr, fun h => hlast ▸ h, fun _ => ⟨hcnt, hlast⟩⟩
    · rw [e, dropMalformed_eq]
      refine ⟨(BitVec.getLsbD_or ..).trans (Bool.or_false _), fun h => ?_, fun hfits => absurd hfits hout⟩
      rcases hsub with rfl | rfl <;> nomatch h

/-- Settles O30: of the ways a datagram can go only a drop moves the drop counter, and a drop writes that counter,
`LAST_DROP` and the error registers. -/
theorem droppedDatagramsLeaveTheFrameAlone : Obligations.DroppedDatagramsLeaveTheFrameAlone := by
  intro s t d i hi h hne
  rw [exec_of_offers hi] at h
  injection h with h
  subst h
  rcases rxpkt_cases d s with ⟨-, e⟩ | ⟨-, r, idx, e⟩ | ⟨-, hdr, descs, payoff, -, -, e⟩
    | ⟨-, hdr, descs, payoff, -, -, -, e⟩ <;> rw [e] at hne ⊢
  · exact absurd rfl hne
  · exact ⟨rfl, rfl, rfl, rfl, rfl, rfl, rfl, rfl, rfl, rfl, rfl, rfl, rfl⟩
  · exact ⟨rfl, rfl, rfl, rfl, rfl, rfl, rfl, rfl, rfl, rfl, rfl, rfl, rfl⟩
  · exact absurd (acceptDatagram_no_drop d hdr descs payoff s).2.1 hne

/-! ## The transitions of `RX_STATUS.STATE` (R216) -/

theorem txline_rxState (a : SinkAnswer) (s : State) : (txline a s).rxState = s.rxState :=
  (keepsCycle_txline a s).state

theorem storeReg_rxState (r : Reg) (v : Word) (s : State) : (storeReg r v s).rxState = s.rxState := by
  cases r <;> rfl

theorem clearReg_rxState (r : Reg) (v : Word) (s : State) : (clearReg r v s).rxState = s.rxState := by
  cases r <;> rfl

/-- Of the ways a datagram can go only an accepted marker moves the state (R204, R210). -/
theorem rxpkt_rxState (d : List Byte) (s : State) :
    (rxpkt d s).rxState = s.rxState
    ∨ (s.rxState = .receiving ∧ (rxpkt d s).rxState = .complete
        ∧ ∃ hdr descs, acceptedAs s d hdr descs ∧ hdr.m = 1) := by
  rcases rxpkt_cases d s with ⟨-, e⟩ | ⟨-, r, idx, e⟩ | ⟨-, hdr, descs, payoff, -, -, e⟩
    | ⟨hr, hdr, descs, payoff, hd, hn, hg, e⟩
  · exact .inl (by rw [e])
  · exact .inl (by rw [e, dropMalformed_eq])
  · exact .inl (by rw [e, raise_rxState, drop_rxState])
  · obtain ⟨-, -, -, -, rfl⟩ := dech_ok hd
    rw [e, acceptDatagram, completeOn_eq, trackSeq_eq]
    by_cases hm : hdr.m = 1
    · exact .inr ⟨hr, if_pos hm, hdr, descs, (acceptedAs_iff s d hdr descs).mpr ⟨hd, hn, hg⟩, hm⟩
    · exact .inl (if_neg hm)

/-- The commands that move the state: `RXFRAME`, `RXREL` and `SOFTRST`. -/
theorem command_rxState (c : Byte) (s : State) :
    (command c s).rxState = s.rxState
    ∨ (c = 2 ∧ s.rxState = .idle ∧ (command c s).rxState = .receiving ∧ s.width ≠ 0 ∧ s.height ≠ 0)
    ∨ (c = 3 ∧ s.rxState = .complete ∧ (command c s).rxState = .idle)
    ∨ (c = 4 ∧ (command c s).rxState = .idle) := by
  rcases command_cases c s with ⟨-, e⟩ | ⟨-, e⟩ | ⟨hc, e⟩ | ⟨hc, e⟩ | ⟨hc, e⟩ | ⟨-, e⟩ <;> rw [e]
  · exact .inl rfl
  · rcases txframe_cases s with ⟨x, sub, e⟩ | ⟨-, -, -, -, e⟩ <;> rw [e]
    · exact .inl rfl
    · exact .inl rfl
  · rcases rxframe_cases s with ⟨x, sub, e⟩ | ⟨hidle, hw, hh, e⟩ <;> rw [e]
    · exact .inl rfl
    · exact .inr (.inl ⟨hc, hidle, rfl, hw, hh⟩)
  · rcases rxrel_cases s with ⟨hcomplete, e⟩ | ⟨-, e⟩ <;> rw [e]
    · exact .inr (.inr (.inl ⟨hc, hcomplete, rfl⟩))
    · exact .inl rfl
  · exact .inr (.inr (.inr ⟨hc, rfl⟩))
  · exact .inl rfl

theorem carriesCommand_self {i : Instr} {c : Byte} (h : commandOf i = some c) : carriesCommand c i = true := by
  rw [carriesCommand_of_commandOf h, beq_self_eq_true]

/-- Settles O35: of the operations a step can do, only a datagram, a command and the timeout move the state. -/
theorem receiveStateTransitions : Obligations.ReceiveStateTransitions := by
  intro i s t h
  rw [after_of_exec h]
  rcases after_cases i s with e | ⟨o, e⟩ | ⟨line, last, ts, ssrc, n, o, -, e⟩ | ⟨a, e, -⟩ | ⟨d, hi, e⟩
    | ⟨c, hc, e⟩ | ⟨code, -, e⟩ | ⟨hi, e⟩ | ⟨r, v, -, -, -, e⟩ | ⟨r, v, -, -, -, e⟩ | ⟨r, v, -, -, e⟩ <;>
    rw [e]
  · exact .inl rfl
  · exact .inl rfl
  · exact .inl rfl
  · exact .inl (txline_rxState a s)
  · rcases rxpkt_rxState d s with hkeep | ⟨hr, hcomplete, hdr, descs, hacc, hm⟩
    · exact .inl hkeep
    · exact .inr (.inr (.inl ⟨hr, hcomplete, d, hdr, descs, hi, hacc, hm⟩))
  · have hcarries := carriesCommand_self hc
    rcases command_rxState c s with hkeep | ⟨rfl, hidle, hr, hw, hh⟩ | ⟨rfl, hcomplete, hidle⟩ | ⟨rfl, hidle⟩
    · exact .inl hkeep
    · exact .inr (.inl ⟨hidle, hr, hcarries, hw, hh⟩)
    · exact .inr (.inr (.inr (.inr (.inl ⟨hcomplete, hidle, hcarries⟩))))
    · exact .inr (.inr (.inr (.inr (.inr ⟨hidle, hcarries⟩))))
  · exact .inl rfl
  · rcases rxtmo_cases s with e | ⟨hr, ht, e⟩ <;> rw [e]
    · exact .inl rfl
    · exact .inr (.inr (.inr (.inl ⟨hr, rfl, hi, ht⟩)))
  · exact .inl rfl
  · exact .inl (storeReg_rxState r v s)
  · exact .inl (clearReg_rxState r v s)

end Sys2Proof.Machine
end

section
/-! SUPPORT. The round trip (42_reassembler R217): what the packets of a pass are, what one of them does to a cycle of
the same geometry, and where the machine stands after a part of the run of a cycle with the steps of other agents
in it. -/

namespace Sys2Proof.Machine

/-! ## Entries that carry a command or offer a datagram -/

/-- A write to `CMD` runs the command of its low byte (R125, R234). -/
theorem stepOn_cmd (code : Word) (s : State) :
    stepOn (Script.cmd code) s = .next (command (code.setWidth 8) s) := by
  have hentry : entryStep (Script.cmd code) = some (.regwr 0 code) := by
    rw [Script.cmd, Script.wr, entryStep, decode_encode rfl]
    rfl
  rw [stepOn_of_entryStep hentry rfl, after_of_commandOf rfl]

theorem offeredBy_eq_some {e : Event} {d : List Byte} (h : offeredBy e = some d) :
    ∃ i, entryStep e = some i ∧ offers d i = true := by
  unfold offeredBy at h
  split at h
  · next d' hi => injection h with h; subst h; exact ⟨_, hi, by simp [offers]⟩
  · next d' hi => injection h with h; subst h; exact ⟨_, hi, by simp [offers]⟩
  · nomatch h

theorem rowFits_of_entryStep {e : Event} {i : Instr} (h : entryStep e = some i) : rowFits i = true := by
  unfold entryStep at h
  split at h
  · split at h
    · next hd => injection h with h; subst h; exact rowFits_of_decode_eq_instr hd
    · nomatch h
  · nomatch h

/-- An entry that offers a datagram the source may offer (R11) is an `RXPKT` step. -/
theorem stepOn_offer {e : Event} {d : List Byte} {s : State} (h : offeredBy e = some d)
    (hlen : d.length ≤ s.cfg.maxDatagram) : stepOn e s = .next (rxpkt d s) := by
  obtain ⟨i, hi, ho⟩ := offeredBy_eq_some h
  have hcarried : ∀ d', CarriesDatagram i d' → d'.length ≤ s.cfg.maxDatagram := by
    simp only [offers, Bool.or_eq_true, beq_iff_eq] at ho
    rcases ho with rfl | rfl <;> simpa using hlen
  rw [stepOn_of_entryStep hi ((wellFormed_iff _ i).mpr ⟨rowFits_of_entryStep hi, hcarried⟩), ← exec_eq_after,
    exec_of_offers ho]

theorem offeredBy_stepRx (d : List Byte) : offeredBy (Script.stepRx d) = some d := by
  have hentry : entryStep (Script.stepRx d) = some (decodeOffer d) := by
    rw [Script.stepRx, entryStep, decode_portByte]
    rfl
  rw [offeredBy, hentry, decodeOffer]
  cases datagramMatchesV1 d <;> rfl

/-- A step of another agent offers nothing. -/
theorem offeredBy_of_besideCycle {cfg : Config} {e : Event} (h : besideCycle cfg e = true) :
    offeredBy e = none := by
  rw [Option.eq_none_iff_forall_ne_some]
  intro d hd
  obtain ⟨i, hi, ho⟩ := offeredBy_eq_some hd
  simp only [offers, Bool.or_eq_true, beq_iff_eq] at ho
  rcases ho with rfl | rfl <;> simp [besideCycle, hi, stepsReassembler] at h

/-! ## The packets of a pass -/

/-- The packet of scanline `k` of a pass that begins in `s`: the header of R108, then a row (R175, R176). -/
def IsRowPacket (s : State) (k : Nat) (p : List Byte) : Prop :=
  emittedHeader p (k + 1 == s.height.toNat) (s.seq + BitVec.ofNat 16 k) s.ts s.ssrc (2 * s.width.toNat) k
    ∧ p.length = 20 + 2 * s.width.toNat

/-- Where a list is cut to have `k` occurrences before the cut. -/
theorem exists_split_of_lt_count {α : Type} [DecidableEq α] {x : α} (l : List α) :
    ∀ {k : Nat}, k < l.count x → ∃ a b, l = a ++ x :: b ∧ a.count x = k := by
  induction l with
  | nil => intro k h; simp at h
  | cons y l ih =>
    intro k h
    by_cases hy : y = x
    · subst hy
      cases k with
      | zero => exact ⟨[], l, rfl, rfl⟩
      | succ k =>
        rw [List.count_cons_self] at h
        obtain ⟨a, b, rfl, ha⟩ := ih (Nat.lt_of_succ_lt_succ h)
        exact ⟨y :: a, b, rfl, by rw [List.count_cons_self, ha]⟩
    · rw [List.count_cons_of_ne hy] at h
      obtain ⟨a, b, rfl, ha⟩ := ih h
      exact ⟨y :: a, b, rfl, by rw [List.count_cons_of_ne hy, ha]⟩

/-- Only a host write and the reset input write `TXFB` (R70, R291). -/
theorem stepOn_txfb {e : Event} {s t : State} (h : stepOn e s = .next t)
    (hw : writesBuffer .txfb e = false) (hreset : e ≠ .hardReset) : t.txfb = s.txfb := by
  rcases step_cases h with ⟨ha, -⟩ | ⟨rest, ⟨b, i, -, -, -, rfl⟩ | ⟨sp, a, bytes, ha, -, rfl⟩
    | ⟨sp, a, n, -, -, rfl⟩ | ⟨ha, -⟩⟩
  · nomatch ha
  · exact (stepsOfTheTableKeepTheBuffers i _ _ (exec_eq_after i _)).1
  · injection ha with he
    subst he
    cases sp with
    | txfb => nomatch hw
    | rxfb => rfl
  · rfl
  · injection ha with he
    exact absurd he hreset

theorem runAll_txfb (es : List Event) : ∀ {s t : State}, runAll es s = .next t →
    (∀ e ∈ es, writesBuffer .txfb e = false ∧ e ≠ .hardReset) → t.txfb = s.txfb := by
  induction es with
  | nil =>
    intro s t h _
    injection h with h
    rw [h]
  | cons e es ih =>
    intro s t h hes
    obtain ⟨⟨hw, hreset⟩, hes⟩ := List.forall_mem_cons.mp hes
    cases hu : stepOn e s with
    | next u =>
      rw [runAll_cons hu] at h
      rw [ih h hes, stepOn_txfb hu hw hreset]
    | fault _ | refused _ => simp [runAll, hu] at h

theorem besidePass_ne_hardReset {cfg : Config} {e : Event} (h : besidePass cfg e = true) : e ≠ .hardReset := by
  rintro rfl
  simp [besidePass, abandons, entryStep] at h

/-- The packets of a pass are its rows; where no host write changes `TXFB` during the pass, they are the rows that
stood there when it began. -/
theorem rowPacket_of_passSends {s : State} {es : List Event} {pkts : List (List Byte)} (hb : s.txBusy = true)
    (hl : s.txLine = 0) (hes : ∀ e ∈ es, e = Script.stepTx .ok ∨ besidePass s.cfg e = true)
    (hcount : es.count (Script.stepTx .ok) = s.height.toNat) (hsends : passSends s es pkts) {k : Nat}
    {q : List Byte} (hk : k < s.height.toNat) (hq : pkts[k]? = some q) :
    IsRowPacket s k q
      ∧ ((∀ e ∈ es, writesBuffer .txfb e = false) → emittedRow s q k) := by
  obtain ⟨a, b, rfl, rfl⟩ := exists_split_of_lt_count es (hcount.symm ▸ hk)
  have hmem : ∀ e ∈ a, e ∈ a ++ Script.stepTx .ok :: b := fun e => List.mem_append_left _
  obtain ⟨u, v, p, hu, -, -, hp, hheader, hrow⟩ := hsends a b rfl
  obtain rfl : p = q := Option.some.inj (hp.symm.trans hq)
  obtain ⟨u', _, hrun⟩ := exists_passRun hb hl a (fun e he => hes e (hmem e he)) hk
  obtain rfl : u' = u := by
    have hsame := hrun.run.symm.trans hu
    injection hsame
  have ⟨hlen, _⟩ := hrow
  rw [hrun.width] at hlen
  refine ⟨⟨hheader, hlen⟩, fun hw => ?_⟩
  have htxfb : u'.txfb = s.txfb := runAll_txfb a hu fun e he => by
    refine ⟨hw e (hmem e he), ?_⟩
    rcases hes e (hmem e he) with rfl | hbeside
    · nofun
    · exact besidePass_ne_hardReset hbeside
  rwa [emittedRow, htxfb, hrun.width] at hrow

/-! ## One packet at a receiver of the same geometry -/

/-- The descriptor of scanline `k`. -/
def rowDesc (s : State) (k : Nat) : Descriptor := ⟨BitVec.ofNat 16 (2 * s.width.toNat), BitVec.ofNat 16 k, 0, 0⟩

namespace IsRowPacket

variable {s : State} {k : Nat} {p : List Byte} (h : IsRowPacket s k p)
include h

theorem word : (rd32 p 0).toNat = 0x80600000 + (0 : BitVec 4).toNat * 0x01000000
    + (BitVec.ofBool (k + 1 == s.height.toNat)).toNat * 0x00800000 + (s.seq + BitVec.ofNat 16 k).toNat := by
  obtain ⟨⟨hword, -⟩, -⟩ := h
  rw [hword]
  cases k + 1 == s.height.toNat <;> rfl

theorem seq : (rd32 p 0).extractLsb' 0 16 = s.seq + BitVec.ofNat 16 k := by
  apply BitVec.eq_of_toNat_eq
  have hseq := (s.seq + BitVec.ofNat 16 k).isLt
  rw [extract_toNat, h.word]
  omega

theorem desc : unpackDesc p 14 = rowDesc s k := by
  obtain ⟨⟨-, -, -, -, hstride, hline, hoffw⟩, -⟩ := h
  rw [unpackDesc, (BitVec.toNat_eq_nat.mp hstride).2, (BitVec.toNat_eq_nat.mp hline).2,
    (BitVec.toNat_eq_nat.mp hoffw).2]
  rfl

end IsRowPacket

theorem rowDesc_length (s : State) (k : Nat) : (rowDesc s k).length.toNat = 2 * s.width.toNat := by
  have hwidth := s.width.isLt
  exact toNat_ofNat_half (by omega)

theorem rowDesc_line {s : State} {k : Nat} (hk : k < s.height.toNat) : (rowDesc s k).line.toNat = k :=
  toNat_ofNat_half (hk.trans s.height.isLt)

/-- A packet of a pass is accepted, whatever `VALIDATE` is (R203). -/
theorem acceptedAs_rowPacket {s u : State} {k : Nat} {p : List Byte} (h : IsRowPacket s k p)
    (hk : k < s.height.toNat) (hw : u.width = s.width) (hh : u.height = s.height) (hcap : 1 ≤ u.cfg.maxDesc) :
    ∃ hdr, (hdr.m = 1 ↔ k + 1 = s.height.toNat) ∧ hdr.seq = s.seq + BitVec.ofNat 16 k
      ∧ acceptedAs u p hdr [rowDesc s k] := by
  have ⟨_, hlen⟩ := h
  obtain ⟨room, hroom⟩ : ∃ room, u.cfg.maxDesc = room + 1 := ⟨u.cfg.maxDesc - 1, by omega⟩
  have hchain : readChain p p.length u.cfg.maxDesc 0 = .ok [rowDesc s k] := by
    rw [hroom, readChain_of_last (by omega) (by rw [h.desc]; rfl), h.desc]
  have hend : payloadOffset [rowDesc s k] + totalLength [rowDesc s k] ≤ p.length := by
    simp only [payloadOffset, totalLength, rowDesc_length, List.length_singleton]
    omega
  have hdech := dech_of_chain hchain hend
  rw [readHeader_of_word h.word] at hdech
  refine ⟨_, ?_, rfl, hdech, ?_, ?_⟩
  · have hmarker : ∀ b, BitVec.ofBool b = 1 ↔ b = true := by decide
    exact (hmarker _).trans beq_iff_eq
  · rintro ⟨-, hv | hpt⟩
    · exact hv rfl
    · exact hpt rfl
  · intro D hD
    rw [List.mem_singleton.mp hD]
    refine ⟨by rw [rowDesc_line hk, hh]; exact hk, ?_⟩
    rw [rowDesc_length, hw]
    exact (Nat.zero_add _).le

/-- The receiver in `u` has seen no packet before, or expects the sequence number of packet `k` (R206). -/
def InStep (s u : State) (k : Nat) : Prop := u.seqValid = false ∨ u.rxSeqExpect = s.seq + BitVec.ofNat 16 k

/-- What packet `k` of a pass that began in `s` does to a cycle in `u`, which it leaves in `v` (R206 to R211). -/
structure TakesRow (s u v : State) (k : Nat) (p : List Byte) : Prop where
  width : v.width = u.width
  height : v.height = u.height
  cfg : v.cfg = u.cfg
  state : v.rxState = if k + 1 = s.height.toNat then .complete else .receiving
  result : k + 1 = s.height.toNat → v.rxResult = .complete
  pktCnt : v.rxPktCnt = u.rxPktCnt + 1
  byteCnt : v.rxByteCnt = u.rxByteCnt + BitVec.ofNat 32 (2 * s.width.toNat)
  dropCnt : v.rxDropCnt = u.rxDropCnt
  row : ∀ j, j < 2 * s.width.toNat → memGet v.rxfb (k * (2 * s.width.toNat) + j) = p[20 + j]?
  before : ∀ a, a < k * (2 * s.width.toNat) → memGet v.rxfb a = memGet u.rxfb a
  expect : v.rxSeqExpect = s.seq + BitVec.ofNat 16 (k + 1)
  noGap : InStep s u k → v.errStatus = u.errStatus ∧ v.rxGapCnt = u.rxGapCnt

theorem takesRow_rxpkt {s u : State} {k : Nat} {p : List Byte} (h : IsRowPacket s k p)
    (hk : k < s.height.toNat) (hr : u.rxState = .receiving) (hw : u.width = s.width) (hh : u.height = s.height)
    (hcap : 1 ≤ u.cfg.maxDesc) : TakesRow s u (rxpkt p u) k p := by
  obtain ⟨hdr, hm, hseq, hacc⟩ := acceptedAs_rowPacket h hk hw hh hcap
  have hoffers : offers p (.rxpktV1 p) = true := by simp [offers]
  obtain ⟨m, ndesc, payoff, ⟨hrow, hout⟩, -, hexec⟩ :=
    rxpktAcceptsAndScattersADatagram u p (.rxpktV1 p) hdr [rowDesc s k] hr hoffers hacc
  have hstart : descriptorStart u (rowDesc s k) = k * (2 * s.width.toNat) := by
    rw [descriptorStart, rowDesc_line hk, hw]
    rfl
  have hlength := rowDesc_length s k
  rw [exec_of_offers hoffers] at hexec
  injection hexec with hexec
  rw [hexec]
  exact {
    width := rfl
    height := rfl
    cfg := rfl
    state := by simp only [hm]
    result := fun hlast => if_pos (hm.mpr hlast)
    pktCnt := rfl
    byteCnt := by simp only [totalLength, hlength, Nat.add_zero]
    dropCnt := rfl
    row := fun j hj => by
      have hlater : ∀ i E, 0 < i → [rowDesc s k][i]? = some E →
          ¬ covers u E (descriptorStart u (rowDesc s k) + j) := fun i E hi hE => by
        rw [List.getElem?_eq_none hi] at hE
        nomatch hE
      exact hstart ▸ hrow 0 _ j rfl (hlength.symm ▸ hj) hlater
    before := fun a ha => hout a fun D hD hcov => by
      obtain ⟨hle, -⟩ := hcov
      rw [List.mem_singleton.mp hD, hstart] at hle
      omega
    expect := by
      rw [hseq, BitVec.add_assoc, BitVec.ofNat_add]
      rfl
    noGap := fun hstep => by
      have hgap : ¬ (u.ctrl.getLsbD 1 = true ∧ u.seqValid = true ∧ hdr.seq ≠ u.rxSeqExpect) := by
        rintro ⟨-, hvalid, hne⟩
        rcases hstep with hfirst | hexpect
        · exact absurd (hfirst.symm.trans hvalid) nofun
        · exact hne (hseq.trans hexpect.symm)
      exact ⟨if_neg hgap, if_neg hgap⟩ }

/-! ## The offers of a longer run -/

/-- What `cycleTakes` asks for one `RXPKT` step, after the entries `a` of a cycle that began in `r`. -/
def takesAfter (r : State) (a : List Event) (e : Event) (p : List Byte) (rowBytes : Nat) : Prop :=
  let k := (a.filterMap offeredBy).length
  ∃ u v : State, runAll a r = .next u ∧ runAll (a ++ [e]) r = .next v
    ∧ v.rxPktCnt = u.rxPktCnt + 1 ∧ v.rxDropCnt = u.rxDropCnt
    ∧ (∀ j, j < rowBytes → memGet v.rxfb (k * rowBytes + j) = p[20 + j]?)
    ∧ (k ≠ 0 ∨ u.seqValid = false ∨ (rd32 p 0).extractLsb' 0 16 = u.rxSeqExpect →
        v.errStatus = u.errStatus ∧ v.rxGapCnt = u.rxGapCnt)

theorem cycleTakes_iff (r : State) (es : List Event) (rowBytes : Nat) :
    cycleTakes r es rowBytes ↔
      ∀ a e b p, es = a ++ e :: b → offeredBy e = some p → takesAfter r a e p rowBytes := Iff.rfl

theorem cycleTakes_snoc {r : State} {es : List Event} {e : Event} {rowBytes : Nat}
    (h : cycleTakes r es rowBytes) (he : ∀ p, offeredBy e = some p → takesAfter r es e p rowBytes) :
    cycleTakes r (es ++ [e]) rowBytes := by
  rw [cycleTakes_iff] at h ⊢
  intro a x b p hab hx
  rcases snoc_eq_append_cons hab with ⟨rfl, rfl⟩ | ⟨b', hes⟩
  · exact he p hx
  · exact h a x b' p hes hx

/-! ## Part of a cycle -/

/-- After the entries `fs` the cycle that began in `r` stands in `u`, and the first packets `pkts` of a pass that
began in `s` have been accepted: it is in flight, or complete after the last of them. -/
structure CycleRun (s r : State) (fs : List Event) (u : State) (pkts : List (List Byte)) : Prop where
  run : runAll fs r = .next u
  offered : fs.filterMap offeredBy = pkts
  state : u.rxState = if pkts.length = s.height.toNat then .complete else .receiving
  result : pkts.length = s.height.toNat → u.rxResult = .complete
  width : u.width = s.width
  height : u.height = s.height
  cfg : u.cfg = r.cfg
  pktCnt : u.rxPktCnt = BitVec.ofNat 32 pkts.length
  byteCnt : u.rxByteCnt = BitVec.ofNat 32 (pkts.length * (2 * s.width.toNat))
  dropCnt : u.rxDropCnt = 0
  rows : ∀ k q j, pkts[k]? = some q → j < 2 * s.width.toNat →
    memGet u.rxfb (k * (2 * s.width.toNat) + j) = q[20 + j]?
  inStep : pkts ≠ [] ∨ InStep s r 0 → InStep s u pkts.length
  gapCnt : InStep s r 0 → u.rxGapCnt = r.rxGapCnt
  takes : cycleTakes r fs (2 * s.width.toNat)

namespace CycleRun

variable {s r u : State} {fs : List Event} {pkts : List (List Byte)} (h : CycleRun s r fs u pkts)
include h

/-- A step of another agent leaves the cycle where it is. -/
theorem snoc_beside {e : Event} (hmore : pkts.length < s.height.toNat) (he : besideCycle r.cfg e = true) :
    ∃ v, CycleRun s r (fs ++ [e]) v pkts := by
  obtain ⟨v, hv, hk⟩ := stepOn_besideCycle (h.state.trans (if_neg hmore.ne)) (h.cfg.symm ▸ he)
  have hnone := offeredBy_of_besideCycle he
  exact ⟨v, {
    run := runAll_snoc h.run hv
    offered := by rw [List.filterMap_append, h.offered, List.filterMap_cons_none hnone, List.filterMap_nil,
      List.append_nil]
    state := hk.state.trans h.state
    result := fun hlast => absurd hlast hmore.ne
    width := hk.width.trans h.width
    height := hk.height.trans h.height
    cfg := hk.cfg.trans h.cfg
    pktCnt := hk.pktCnt.trans h.pktCnt
    byteCnt := hk.byteCnt.trans h.byteCnt
    dropCnt := hk.dropCnt.trans h.dropCnt
    rows := hk.fb.symm ▸ h.rows
    inStep := fun hpast => by rw [InStep, hk.valid, hk.seqExpect]; exact h.inStep hpast
    gapCnt := fun hstep => hk.gapCnt.trans (h.gapCnt hstep)
    takes := cycleTakes_snoc h.takes fun p hp => nomatch hnone.symm.trans hp }⟩

/-- The packet that comes next is written to its scanline, and after the last one the cycle is complete. -/
theorem snoc_offer {e : Event} {p : List Byte} (hmore : pkts.length < s.height.toNat)
    (hdesc : 1 ≤ r.cfg.maxDesc) (hcap : 20 + 2 * s.width.toNat ≤ r.cfg.maxDatagram)
    (hp : IsRowPacket s pkts.length p) (he : offeredBy e = some p) :
    CycleRun s r (fs ++ [e]) (rxpkt p u) (pkts ++ [p]) := by
  have ⟨_, hlen⟩ := hp
  have hrun := runAll_snoc h.run (stepOn_offer he (by rw [h.cfg, hlen]; exact hcap))
  have ht := takesRow_rxpkt hp hmore (h.state.trans (if_neg hmore.ne)) h.width h.height
    (by rw [h.cfg]; exact hdesc)
  have hlength : (pkts ++ [p]).length = pkts.length + 1 := List.length_append
  exact {
    run := hrun
    offered := by rw [List.filterMap_append, h.offered, List.filterMap_cons_some he]; rfl
    state := by rw [hlength]; exact ht.state
    result := by rw [hlength]; exact ht.result
    width := ht.width.trans h.width
    height := ht.height.trans h.height
    cfg := ht.cfg.trans h.cfg
    pktCnt := by rw [hlength, ht.pktCnt, h.pktCnt, BitVec.ofNat_add]; rfl
    byteCnt := by rw [hlength, ht.byteCnt, h.byteCnt, Nat.succ_mul pkts.length, BitVec.ofNat_add]
    dropCnt := ht.dropCnt.trans h.dropCnt
    rows := fun k q j hq hj => by
      rcases Nat.lt_or_ge k pkts.length with hk | hk
      · rw [List.getElem?_append_left hk] at hq
        have hend := Nat.mul_le_mul_right (2 * s.width.toNat) (Nat.succ_le_of_lt hk)
        rw [Nat.succ_mul] at hend
        rw [ht.before _ (by omega), h.rows k q j hq hj]
      · obtain rfl : k = pkts.length := by
          have := (List.getElem?_eq_some_iff.mp hq).1
          omega
        rw [List.getElem?_concat_length] at hq
        rw [← Option.some.inj hq]
        exact ht.row j hj
    inStep := fun _ => by rw [hlength]; exact .inr ht.expect
    gapCnt := fun hstep => (ht.noGap (h.inStep (.inr hstep))).2.trans (h.gapCnt hstep)
    takes := cycleTakes_snoc h.takes fun q hq => by
      obtain rfl : p = q := Option.some.inj (he.symm.trans hq)
      refine ⟨u, rxpkt p u, h.run, hrun, ht.pktCnt, ht.dropCnt, by rw [h.offered]; exact ht.row, fun hgap => ?_⟩
      rw [h.offered, hp.seq] at hgap
      refine ht.noGap ?_
      rcases hgap with hne | hfirst | hexpect
      · exact h.inStep (.inl fun hnil => hne (congrArg List.length hnil))
      · exact .inl hfirst
      · exact .inr hexpect.symm }

end CycleRun

/-- Before the last packet a run of a cycle completes, whatever the other agents do. -/
theorem exists_cycleRun {s r : State} (h₀ : CycleRun s r [] r []) (hdesc : 1 ≤ r.cfg.maxDesc)
    (hcap : 20 + 2 * s.width.toNat ≤ r.cfg.maxDatagram) (fs : List Event)
    (hfs : ∀ e ∈ fs, (offeredBy e).isSome = true ∨ besideCycle r.cfg e = true)
    (hn : (fs.filterMap offeredBy).length < s.height.toNat)
    (hrows : ∀ k q, (fs.filterMap offeredBy)[k]? = some q → IsRowPacket s k q) :
    ∃ u, CycleRun s r fs u (fs.filterMap offeredBy) := by
  induction fs using List.reverseRecOn with
  | nil => exact ⟨r, h₀⟩
  | append_singleton fs e ih =>
    rw [List.filterMap_append] at hn hrows
    rw [List.length_append] at hn
    obtain ⟨u, h⟩ := ih (fun x hx => hfs x (List.mem_append_left _ hx)) (by omega) fun k q hq =>
      hrows k q (by rw [List.getElem?_append_left (List.getElem?_eq_some_iff.mp hq).1, hq])
    cases ho : offeredBy e with
    | some p =>
      rw [List.filterMap_cons_some ho, List.filterMap_nil] at hrows
      have hsnoc := h.snoc_offer (by omega) hdesc hcap (hrows _ p List.getElem?_concat_length) ho
      exact ⟨_, hsnoc.offered.symm ▸ hsnoc⟩
    | none =>
      have he := hfs e (List.mem_append_right _ (List.mem_singleton_self e))
      rw [ho] at he
      obtain ⟨v, hv⟩ := h.snoc_beside (by omega) (he.resolve_left nofun)
      exact ⟨v, hv.offered.symm ▸ hv⟩

/-! ## The frame rebuilt (R217) -/

/-- The state in which a pass begins (R170). -/
def passStart (s : State) : State := { s with txBusy := true, txResult := .none, txLine := 0 }

/-- The state in which a cycle begins (R190). -/
def cycleStart (r : State) : State :=
  { r with
    rxState := .receiving, rxResult := .none, lastDrop := none
    rxPktCnt := 0, rxByteCnt := 0, rxDropCnt := 0 }

theorem runAll_cmd_txframe {s : State} (hb : s.txBusy = false) (hw : s.width ≠ 0) (hh : s.height ≠ 0)
    (hcap : 20 + 2 * s.width.toNat ≤ s.cfg.maxDatagram) :
    runAll [Script.cmd 1] s = .next (passStart s) := by
  obtain ⟨-, -, -, hstart⟩ := txframeStartsAPassOrIsRefused s
  rw [runAll_cons (stepOn_cmd 1 s), runAll_nil]
  exact hstart hb hw hh hcap

theorem runAll_cmd_rxframe {r : State} (hr : r.rxState = .idle) (hw : r.width ≠ 0) (hh : r.height ≠ 0) :
    runAll [Script.cmd 2] r = .next (cycleStart r) := by
  obtain ⟨-, -, hstart⟩ := rxframeStartsACycleOrIsRefused r
  rw [runAll_cons (stepOn_cmd 2 r), runAll_nil]
  exact hstart hr hw hh

/-- A cycle begins with no packet at a receiver of the sender's geometry. -/
theorem cycleRun_cycleStart {s r : State} (hw : r.width = s.width) (hh : r.height = s.height)
    (hne : s.height ≠ 0) : CycleRun s (cycleStart r) [] (cycleStart r) [] where
  run := rfl
  offered := rfl
  state := (if_neg fun h0 => hne (BitVec.eq_of_toNat_eq h0.symm)).symm
  result := fun h0 => absurd (BitVec.eq_of_toNat_eq h0.symm) hne
  width := hw
  height := hh
  cfg := rfl
  pktCnt := rfl
  byteCnt := by rw [List.length_nil, Nat.zero_mul]; rfl
  dropCnt := rfl
  rows := nofun
  inStep := fun h => h.resolve_left fun hnil => hnil rfl
  gapCnt := fun _ => rfl
  takes := fun a e b p h => by simp at h

/-- A frame is `HEIGHT` rows of `stride` bytes (R8, R71). -/
theorem fbBytes_eq_rows (s : State) : fbBytes s = s.height.toNat * (2 * s.width.toNat) := by
  rw [fbBytes]
  ring

/-- A byte of the frame by its scanline and its place in the row (R71). -/
theorem exists_line_of_lt_fbBytes {s : State} {a : Nat} (h : a < fbBytes s) :
    ∃ k j, k < s.height.toNat ∧ j < 2 * s.width.toNat ∧ a = k * (2 * s.width.toNat) + j := by
  rw [fbBytes_eq_rows] at h
  have hpos : 0 < 2 * s.width.toNat := Nat.pos_of_ne_zero fun h0 => by simp [h0] at h
  exact ⟨a / (2 * s.width.toNat), a % (2 * s.width.toNat), Nat.div_lt_of_lt_mul (by rwa [Nat.mul_comm]),
    Nat.mod_lt _ hpos, (Nat.div_add_mod' _ _).symm⟩

namespace CycleRun

variable {s r u : State} {fs : List Event} {pkts : List (List Byte)} (h : CycleRun s r fs u pkts)
  (hall : pkts.length = s.height.toNat)
include h hall

theorem rxPktCnt_toNat : u.rxPktCnt.toNat = s.height.toNat := by
  have hheight := s.height.isLt
  rw [h.pktCnt, hall, BitVec.toNat_ofNat]
  omega

theorem rxByteCnt_toNat : u.rxByteCnt.toNat = fbBytes s := by
  have hlargest : fbBytes s ≤ 32767 * 65535 * 2 := fbBytes_le_largest s
  rw [h.byteCnt, hall, ← fbBytes_eq_rows, BitVec.toNat_ofNat]
  omega

/-- A byte of the sender's frame that its row's packet carries arrives at its own offset. -/
theorem rxfb_of_emittedRow (hrows : ∀ k q, pkts[k]? = some q → emittedRow s q k) {a : Nat} {b : Byte}
    (ha : a < fbBytes s) (hb : memGet s.txfb a = some b) : memGet u.rxfb a = some b := by
  obtain ⟨k, j, hk, hj, rfl⟩ := exists_line_of_lt_fbBytes ha
  have hq : pkts[k]? = some pkts[k] := List.getElem?_eq_getElem (hall.symm ▸ hk)
  obtain ⟨-, hrow⟩ := hrows k _ hq
  rw [h.rows k _ j hq hj, hrow j b hj hb]

end CycleRun

/-- Settles O36: the packets of the pass are row packets, so the run up to the last of them is a `CycleRun` in flight
and the last one completes it. -/
theorem frameRoundTrip : Obligations.FrameRoundTrip := by
  intro s es hb hw hh hcap hes hcount
  obtain ⟨s', pkts, hrun, hsent, hlen, hsends, -⟩ :=
    passSendsEveryScanlineInOrder (passStart s) es rfl rfl hh hes hcount
  have hlen : pkts.length = s.height.toNat := hlen
  have hrows : ∀ k q, pkts[k]? = some q →
      IsRowPacket s k q ∧ ((∀ e ∈ es, writesBuffer .txfb e = false) → emittedRow s q k) := by
    intro k q hq
    have hk : k < s.height.toNat := hlen ▸ (List.getElem?_eq_some_iff.mp hq).1
    obtain ⟨hpacket, hrow⟩ := rowPacket_of_passSends (s := passStart s) rfl rfl
      (List.forall_mem_append.mpr ⟨hes, List.forall_mem_singleton.mpr (.inl rfl)⟩)
      (by rw [List.count_append, List.count_singleton_self]; exact hcount) hsends hk hq
    exact ⟨hpacket, fun hquiet => hrow (List.forall_mem_append.mpr ⟨hquiet, List.forall_mem_singleton.mpr rfl⟩)⟩
  refine ⟨passStart s, s', pkts, runAll_cmd_txframe hb hw hh hcap, hrun, hsent, hlen, hsends,
    fun r fs p hidle hrw hrh hdesc hrcap hfs hoffers => ?_⟩
  have hcut : (fs.filterMap offeredBy).length + 1 = s.height.toNat := by
    rw [← hlen, ← hoffers, List.length_append, List.length_singleton]
  obtain ⟨u, hu⟩ := exists_cycleRun (cycleRun_cycleStart hrw hrh hh) hdesc hrcap fs hfs (by omega) fun k q hq =>
    (hrows k q (by rw [← hoffers, List.getElem?_append_left (List.getElem?_eq_some_iff.mp hq).1, hq])).1
  have hlast := hu.snoc_offer (by omega) hdesc hrcap
    (hrows _ p (by rw [← hoffers]; exact List.getElem?_concat_length)).1 (offeredBy_stepRx p)
  rw [hoffers] at hlast
  refine ⟨cycleStart r, rxpkt p u, runAll_cmd_rxframe hidle (hrw ▸ hw) (hrh ▸ hh), rfl, rfl, hlast.run,
    hlast.state.trans (if_pos hlen), hlast.result hlen, fun k q j hq hj => ⟨hlast.rows k q j hq hj, ?_⟩,
    fun hquiet a b => hlast.rxfb_of_emittedRow hlen fun k q hq => (hrows k q hq).2 hquiet,
    hlast.rxPktCnt_toNat hlen, hlast.rxByteCnt_toNat hlen, hlast.dropCnt, hlast.takes, rfl,
    fun hstep => hlast.gapCnt (hstep.imp_right fun hexpect => hexpect.trans (BitVec.add_zero _).symm)⟩
  obtain ⟨⟨-, hqlen⟩, -⟩ := hrows k q hq
  rw [List.getElem?_eq_getElem (by omega)]
  rfl

end Sys2Proof.Machine
end

section
/-! SUPPORT. The host interface (43_host_commands): what `REGRD` and `REGWR` do at the offset of a register and
elsewhere (R230 to R233), the commands (R234, R235, R237) and `SOFTRST` (R236). -/

namespace Sys2Proof.Machine

/-! ## Offsets of the map and offsets outside it (R40) -/

theorem regOffset_of_regAt {off : Word} {r : Reg} (h : regAt off = some r) : regOffset r = off := by
  simpa using List.find?_some h

/-- The registers stand at multiples of 4 up to `0x68`. -/
theorem regOffset_toNat_range (r : Reg) : (regOffset r).toNat % 4 = 0 ∧ (regOffset r).toNat ≤ 0x68 := by
  cases r <;> decide

/-- The read-only registers are those from `TX_STATUS` to `RXH_PAYOFF`, and `ERR_INFO`. -/
theorem regAccess_eq_ro_iff (r : Reg) :
    regAccess r = .ro ↔ (0x24 ≤ (regOffset r).toNat ∧ (regOffset r).toNat ≤ 0x58)
      ∨ (regOffset r).toNat = 0x60 := by
  cases r <;> decide

theorem regAt_of_unmapped {off : Word} (h : off.toNat % 4 ≠ 0 ∨ off.toNat > 0x68) : regAt off = none := by
  cases hr : regAt off with
  | none => rfl
  | some r =>
    have hrange := regOffset_toNat_range r
    rw [regOffset_of_regAt hr] at hrange
    omega

/-! ## `REGRD` (R230) -/

theorem exec_regrd (off : Word) (s : State) :
    exec (.regrd off) s = .next { s with out := s.out ++ [.value (readOffset off s)] } :=
  exec_eq_after (.regrd off) s

@[simp] theorem readOffset_regOffset (r : Reg) (s : State) : readOffset (regOffset r) s = regValue r s := by
  rw [readOffset, regAt_regOffset]

theorem readOffset_of_unmapped {off : Word} (h : off.toNat % 4 ≠ 0 ∨ off.toNat > 0x68) (s : State) :
    readOffset off s = 0 := by
  rw [readOffset, regAt_of_unmapped h]

/-- `TX_STATUS` as one number (R35). -/
theorem txStatusWord_toNat (s : State) :
    (txStatusWord s).toNat = s.txBusy.toNat + 2 * (txResultBits s.txResult).toNat := by
  simp only [txStatusWord, append_toNat, BitVec.toNat_ofBool, BitVec.toNat_ofNat, Nat.zero_mod]
  omega

/-- `RX_STATUS` as one number (R37). -/
theorem rxStatusWord_toNat (s : State) :
    (rxStatusWord s).toNat = (rxStateBits s.rxState).toNat + 4 * (rxResultBits s.rxResult).toNat
      + 16 * s.seqValid.toNat + 256 * (lastDropBits s.lastDrop).toNat := by
  simp only [rxStatusWord, append_toNat, BitVec.toNat_ofBool, BitVec.toNat_ofNat, Nat.zero_mod]
  omega

/-- Settles O37: the list of the statement is the map of R40 with the value of each register, the two status words
as numbers; outside the map `REGRD` finds no register. -/
theorem regrdReturnsTheRegister : Obligations.RegrdReturnsTheRegister := by
  intro s txResult rxState rxResult lastDrop
  refine ⟨fun p hp => ?_, fun off hoff => ?_⟩
  · have htx : (regValue .txStatus s).toNat = s.txBusy.toNat + 2 * txResult := by
      have hresult : (txResultBits s.txResult).toNat = txResult := by
        unfold txResult
        cases s.txResult <;> rfl
      rw [regValue, txStatusWord_toNat, hresult]
    have hrx : (regValue .rxStatus s).toNat
        = rxState + 4 * rxResult + 16 * s.seqValid.toNat + 256 * lastDrop := by
      have hstate : (rxStateBits s.rxState).toNat = rxState := by
        unfold rxState
        cases s.rxState <;> rfl
      have hresult : (rxResultBits s.rxResult).toNat = rxResult := by
        unfold rxResult
        cases s.rxResult <;> rfl
      have hdrop : (lastDropBits s.lastDrop).toNat = lastDrop := by
        unfold lastDrop
        rcases s.lastDrop with _ | d
        · rfl
        · cases d <;> rfl
      rw [regValue, rxStatusWord_toNat, hstate, hresult, hdrop]
    have hmap : p ∈ allRegs.map fun r => ((regOffset r).toNat, (regValue r s).toNat) := by
      rw [← htx, ← hrx] at hp
      exact hp
    obtain ⟨r, -, rfl⟩ := List.mem_map.mp hmap
    rw [exec_regrd, BitVec.ofNat_toNat, BitVec.ofNat_toNat, BitVec.setWidth_eq, BitVec.setWidth_eq,
      readOffset_regOffset]
  · rw [exec_regrd, readOffset_of_unmapped hoff]

/-! ## `REGWR` (R231) -/

theorem exec_regwr_of_unlocked {r : Reg} {s : State} (hrw : regAccess r = .rw) (hl : lockedReg r s = false)
    (v : Word) : exec (.regwr (regOffset r) v) s = .next (storeReg r v s) := by
  simp [exec_eq_after, after, regwr, writeReg, hrw, hl]

theorem exec_regwr_of_w1c {r : Reg} (hw : regAccess r = .w1c) (v : Word) (s : State) :
    exec (.regwr (regOffset r) v) s = .next (clearReg r v s) := by
  simp [exec_eq_after, after, regwr, writeReg, hw]

/-- Settles O38: each offset is that of a register with access `RW`, which stores the low bits of the value when it
is not locked. -/
theorem regwrStoresTheImplementedBits : Obligations.RegwrStoresTheImplementedBits := by
  intro s v
  simp only [BitVec.ofNat_toNat]
  have hcycle (hr : s.rxState ≠ .receiving) : (s.rxState == .receiving) = false := beq_false_of_ne hr
  refine ⟨fun hb hr => ?_, fun hb => ?_, fun hr => ?_, exec_regwr_of_unlocked (r := .irqEnable) rfl rfl v⟩
  · have hl : (s.txBusy || s.rxState == .receiving) = false := by rw [hb, hcycle hr]; rfl
    exact ⟨exec_regwr_of_unlocked (r := .width) rfl hl v, exec_regwr_of_unlocked (r := .height) rfl hl v⟩
  · exact ⟨exec_regwr_of_unlocked (r := .ssrc) rfl hb v, exec_regwr_of_unlocked (r := .ts) rfl hb v,
      exec_regwr_of_unlocked (r := .tsTick) rfl hb v, exec_regwr_of_unlocked (r := .seq) rfl hb v⟩
  · exact ⟨exec_regwr_of_unlocked (r := .rxTimeout) rfl (hcycle hr) v,
      exec_regwr_of_unlocked (r := .ctrl) rfl (hcycle hr) v⟩

/-- Settles O40: both registers have access `W1C`, and the new value is the old one with the ones of the value masked
out. -/
theorem regwrClearsTheWrittenOnes : Obligations.RegwrClearsTheWrittenOnes := by
  intro s v
  refine ⟨s.errStatus &&& ~~~v, s.irqStatus &&& ~~~(v.setWidth 2),
    exec_regwr_of_w1c (r := .errStatus) rfl v s, exec_regwr_of_w1c (r := .irqStatus) rfl v s,
    fun k hk => ?_, fun k hk => ?_⟩
  · rw [BitVec.getLsbD_and, BitVec.getLsbD_not, decide_eq_true hk, Bool.true_and]
  · rw [BitVec.getLsbD_and, BitVec.getLsbD_not, BitVec.getLsbD_setWidth, decide_eq_true hk, Bool.true_and,
      Bool.true_and]

/-- Settles O41: no register stands at the offset, or a read-only one. -/
theorem regwrElsewhereDoesNothing : Obligations.RegwrElsewhereDoesNothing := by
  intro s off v h
  rw [exec_eq_after, after, regwr]
  cases hr : regAt off with
  | none => rfl
  | some r =>
    have hrange := regOffset_toNat_range r
    have hro := regAccess_eq_ro_iff r
    rw [regOffset_of_regAt hr] at hrange hro
    simp only [writeReg, hro.mpr (by omega)]

/-! ## The commands (R234 to R237) -/

/-- Settles O43: the state `NOP` answers is the one it was given. -/
theorem nopHasNoEffect : Obligations.NopHasNoEffect := exec_eq_after .nop

/-- Settles O44: `SOFTRST` is the register reset, which takes the buffers and the model's own fields over. -/
theorem softrstRestoresEveryRegister : Obligations.SoftrstRestoresEveryRegister := fun s =>
  ⟨resetRegs s, exec_eq_after .softrst s, fun r _ => regValue_resetRegs r s, rfl, rfl, rfl, rfl, rfl, rfl, rfl⟩

/-- Settles O45: the code fits `INFO`. -/
theorem reservedCommandRaisesBadCmd : Obligations.ReservedCommandRaisesBadCmd := by
  intro s code
  have hinfo : (code.setWidth 16).toNat = code.toNat := BitVec.toNat_setWidth_of_le (by decide)
  rw [exec_eq_after, after, reservedCommand, raise_eq, hinfo]
  rfl

theorem decodeCommand_of_five_le {c : Byte} (h : 5 ≤ c.toNat) : decodeCommand c = .cmdReserved c := by
  unfold decodeCommand
  split
  case h_6 => rfl
  all_goals omega

/-- A command runs as the step its code decodes to. -/
theorem exec_decodeCommand (c : Byte) (s : State) : exec (decodeCommand c) s = .next (command c s) := by
  rcases command_cases c s with ⟨rfl, e⟩ | ⟨rfl, e⟩ | ⟨rfl, e⟩ | ⟨rfl, e⟩ | ⟨rfl, e⟩ | ⟨h5, e⟩ <;> rw [e]
  · exact exec_eq_after .nop s
  · exact exec_eq_after .txframe s
  · exact exec_eq_after .rxframe s
  · exact exec_eq_after .rxrel s
  · exact exec_eq_after .softrst s
  · rw [decodeCommand_of_five_le h5]
    exact exec_eq_after (.cmdReserved c) s

theorem exec_regwr_cmd (v : Word) (s : State) :
    exec (.regwr 0 v) s = exec (decodeCommand (v.setWidth 8)) s :=
  (exec_decodeCommand (v.setWidth 8) s).symm

/-- Settles O42: a write to `CMD` runs as the step its low byte decodes to. -/
theorem writeToCmdRunsTheCommand : Obligations.WriteToCmdRunsTheCommand := by
  intro s v code
  have hlow : (v.setWidth 8).toNat = code := BitVec.toNat_setWidth 8 v
  have hrun (c : Byte) (hc : code = c.toNat) : exec (.regwr 0 v) s = exec (decodeCommand c) s := by
    rw [exec_regwr_cmd, BitVec.eq_of_toNat_eq (hlow.trans hc)]
  refine ⟨hrun 0, hrun 1, hrun 2, hrun 3, hrun 4, fun h5 => ?_⟩
  rw [exec_regwr_cmd, decodeCommand_of_five_le (hlow ▸ h5), reservedCommandRaisesBadCmd, hlow]

end Sys2Proof.Machine
end

section
/-! SUPPORT. Exceptions and completion (60_exceptions): what raising records (R252), and what moves the two completion
bits of `IRQ_STATUS` (R262). -/

namespace Sys2Proof.Machine

/-! ## Raising an exception (R252) -/

/-- Settles O46: the sticky bit of a code is the power of two of that number. -/
theorem raiseRecordsTheException : Obligations.RaiseRecordsTheException := by
  intro e sub info s
  have hbit : BitVec.ofNat 32 (2 ^ excCode e) = BitVec.twoPow 32 (excCode e) := by cases e <;> rfl
  rw [hbit, raise_eq]

/-! ## The completion bits (R43, R262) -/

/-- What a step other than `SOFTRST` and a host write does to the completion bits: it leaves them, or it ends a pass
and sets `TX_DONE`, or it ends a cycle and sets `RX_DONE`. -/
inductive CompletionStep (s t : State) : Prop where
  | keeps (hirq : t.irqStatus = s.irqStatus)
  | endsPass (hbusy : s.txBusy = true) (hidle : t.txBusy = false)
      (hirq : t.irqStatus = s.irqStatus ||| txDoneBit)
  | endsCycle (hrx : s.rxState = .receiving) (hout : t.rxState ≠ .receiving)
      (hirq : t.irqStatus = s.irqStatus ||| rxDoneBit)

theorem eq_zero_of_txDoneBit {k : Nat} (h : txDoneBit.getLsbD k = true) : k = 0 :=
  (show ∀ j < 2, txDoneBit.getLsbD j = true → j = 0 by decide) k (BitVec.lt_of_getLsbD h) h

theorem eq_one_of_rxDoneBit {k : Nat} (h : rxDoneBit.getLsbD k = true) : k = 1 :=
  (show ∀ j < 2, rxDoneBit.getLsbD j = true → j = 1 by decide) k (BitVec.lt_of_getLsbD h) h

theorem CompletionStep.keeps_set_bit {s t : State} {k : Nat} (h : CompletionStep s t)
    (hk : s.irqStatus.getLsbD k = true) : t.irqStatus.getLsbD k = true := by
  cases h with
  | keeps hirq => rwa [hirq]
  | endsPass _ _ hirq => rw [hirq, BitVec.getLsbD_or, hk, Bool.true_or]
  | endsCycle _ _ hirq => rw [hirq, BitVec.getLsbD_or, hk, Bool.true_or]

theorem CompletionStep.cause_of_set_bit {s t : State} {k : Nat} (h : CompletionStep s t)
    (hs : s.irqStatus.getLsbD k = false) (ht : t.irqStatus.getLsbD k = true) :
    (k = 0 ∧ s.txBusy = true ∧ t.txBusy = false)
    ∨ (k = 1 ∧ s.rxState = .receiving ∧ t.rxState ≠ .receiving) := by
  cases h with
  | keeps hirq => rw [hirq, hs] at ht; cases ht
  | endsPass hbusy hidle hirq =>
    rw [hirq, BitVec.getLsbD_or, hs, Bool.false_or] at ht
    exact .inl ⟨eq_zero_of_txDoneBit ht, hbusy, hidle⟩
  | endsCycle hrx hout hirq =>
    rw [hirq, BitVec.getLsbD_or, hs, Bool.false_or] at ht
    exact .inr ⟨eq_one_of_rxDoneBit ht, hrx, hout⟩

theorem completionStep_txline (a : SinkAnswer) (s : State) : CompletionStep s (txline a s) := by
  rcases txline_cases a s with ⟨-, e⟩ | ⟨hbusy, -, e⟩ | ⟨hbusy, -, -, e⟩ | ⟨-, -, -, e⟩ <;> rw [e]
  · exact .keeps rfl
  · exact .endsPass hbusy rfl rfl
  · exact .endsPass hbusy rfl rfl
  · exact .keeps rfl

/-- An accepted datagram ends the cycle exactly where it carries the marker (R204, R210). -/
theorem completionStep_acceptDatagram {s : State} (hr : s.rxState = .receiving) (d : List Byte) (hdr : Header)
    (descs : List Descriptor) (payoff : Nat) : CompletionStep s (acceptDatagram d hdr descs payoff s) := by
  rw [acceptDatagram, completeOn_eq, trackSeq_eq]
  by_cases hm : hdr.m = 1
  · exact .endsCycle hr (by simp [hm]) (if_pos hm)
  · exact .keeps (if_neg hm)

theorem completionStep_rxpkt (d : List Byte) (s : State) : CompletionStep s (rxpkt d s) := by
  rcases rxpkt_cases d s with ⟨-, e⟩ | ⟨-, r, idx, e⟩ | ⟨-, hdr, descs, payoff, -, -, e⟩
    | ⟨hr, hdr, descs, payoff, -, -, -, e⟩ <;> rw [e]
  · exact .keeps rfl
  · exact .keeps rfl
  · exact .keeps rfl
  · exact completionStep_acceptDatagram hr d hdr descs payoff

theorem completionStep_rxtmo (s : State) : CompletionStep s (rxtmo s) := by
  rcases rxtmo_cases s with e | ⟨hr, -, e⟩ <;> rw [e]
  · exact .keeps rfl
  · exact .endsCycle hr nofun rfl

/-- Of the commands only `SOFTRST` changes a completion bit. -/
theorem command_irqStatus {c : Byte} (hc : c ≠ 4) (s : State) : (command c s).irqStatus = s.irqStatus := by
  rcases command_cases c s with ⟨-, e⟩ | ⟨-, e⟩ | ⟨-, e⟩ | ⟨-, e⟩ | ⟨h4, -⟩ | ⟨-, e⟩
  · rw [e]; rfl
  · rw [e]
    rcases txframe_cases s with ⟨x, sub, e⟩ | ⟨-, -, -, -, e⟩
    · rw [e, raise_irqStatus]
    · rw [e]
  · rw [e]
    rcases rxframe_cases s with ⟨x, sub, e⟩ | ⟨-, -, -, e⟩
    · rw [e, raise_irqStatus]
    · rw [e]
  · rw [e]
    rcases rxrel_cases s with ⟨-, e⟩ | ⟨-, e⟩
    · rw [e]
    · rw [e, raise_irqStatus]
  · exact absurd h4 hc
  · rw [e]; rfl

theorem storeReg_irqStatus (r : Reg) (v : Word) (s : State) : (storeReg r v s).irqStatus = s.irqStatus := by
  cases r <;> rfl

/-- A `W1C` write changes a completion bit only at `IRQ_STATUS`, where it clears the written ones (R233). -/
theorem clearReg_irqStatus (r : Reg) (v : Word) (s : State) :
    (clearReg r v s).irqStatus = s.irqStatus
    ∨ (r = .irqStatus ∧ (clearReg r v s).irqStatus = s.irqStatus &&& ~~~(v.setWidth 2)) := by
  cases r with
  | irqStatus => exact .inr ⟨rfl, rfl⟩
  | _ => exact .inl rfl

/-- A completion bit that a mask of written ones clears is one of them. -/
theorem written_of_cleared {b : BitVec 2} {v : Word} {k : Nat} (hb : b.getLsbD k = true)
    (hc : (b &&& ~~~(v.setWidth 2)).getLsbD k = false) : v.getLsbD k = true := by
  have hk : k < 2 := BitVec.lt_of_getLsbD hb
  simpa [hb, hk] using hc

/-- The three ways of a step of the table with the completion bits: `SOFTRST` clears both, a host write clears those it
writes a 1 to, and any other step goes as `CompletionStep` says. -/
theorem after_irqStatus_cases (i : Instr) (s : State) :
    CompletionStep s (after i s)
    ∨ (carriesCommand 4 i = true ∧ (after i s).irqStatus = 0#2)
    ∨ (∃ v, i = .regwr 0x64 v ∧ (after i s).irqStatus = s.irqStatus &&& ~~~(v.setWidth 2)) := by
  rcases after_cases i s with e | ⟨o, e⟩ | ⟨line, last, ts, ssrc, n, o, -, e⟩ | ⟨a, e, -⟩ | ⟨d, -, e⟩
    | ⟨c, hc, e⟩ | ⟨code, -, e⟩ | ⟨-, e⟩ | ⟨r, v, -, -, -, e⟩ | ⟨r, v, -, -, -, e⟩ | ⟨r, v, rfl, -, e⟩ <;>
    rw [e]
  · exact .inl (.keeps rfl)
  · exact .inl (.keeps rfl)
  · exact .inl (.keeps rfl)
  · exact .inl (completionStep_txline a s)
  · exact .inl (completionStep_rxpkt d s)
  · by_cases h4 : c = 4
    · subst h4
      exact .inr (.inl ⟨carriesCommand_self hc, rfl⟩)
    · exact .inl (.keeps (command_irqStatus h4 s))
  · exact .inl (.keeps rfl)
  · exact .inl (completionStep_rxtmo s)
  · exact .inl (.keeps rfl)
  · exact .inl (.keeps (storeReg_irqStatus r v s))
  · rcases clearReg_irqStatus r v s with hkeep | ⟨rfl, hclear⟩
    · exact .inl (.keeps hkeep)
    · exact .inr (.inr ⟨v, rfl, hclear⟩)

/-- Settles O49: a step that ends no pass and no cycle sets no bit, and only `SOFTRST` and the write of a 1 clear
one. -/
theorem completionBitsFollowTheEngines : Obligations.CompletionBitsFollowTheEngines := by
  intro i s t k h
  rw [after_of_exec h]
  rcases after_irqStatus_cases i s with hstep | ⟨h4, hzero⟩ | ⟨v, hi, hclear⟩
  · refine ⟨fun hs ht => ?_, hstep.cause_of_set_bit⟩
    rw [hstep.keeps_set_bit hs] at ht
    cases ht
  · refine ⟨fun _ _ => .inl h4, fun _ ht => ?_⟩
    rw [hzero, BitVec.getLsbD_zero] at ht
    cases ht
  · rw [hclear]
    refine ⟨fun hs ht => .inr ⟨v, hi, written_of_cleared hs ht⟩, fun hs ht => ?_⟩
    rw [BitVec.getLsbD_and, hs, Bool.false_and] at ht
    cases ht

end Sys2Proof.Machine
end

section
/-! SUPPORT. Reset and hazards (70_reset_and_hazards): the reset input (R290, R291), and the registers that a pass in
flight rests on (R305). -/

namespace Sys2Proof.Machine

/-! ## The reset input (R290, R291) -/

/-- The reset input is the register reset of the state with both buffers emptied. -/
theorem hardReset_eq (s : State) : hardReset s = resetRegs { s with txfb := [], rxfb := [] } := rfl

@[simp] theorem regValue_hardReset (r : Reg) (s : State) : regValue r (hardReset s) = 0 := by
  rw [hardReset_eq, regValue_resetRegs]

/-- Settles O56: the reset input leaves what a register reset leaves, with empty buffers and the rest of the agenda. -/
theorem resetInputClearsEveryRegister : Obligations.ResetInputClearsEveryRegister := by
  intro s rest ha
  exact ⟨hardReset { s with agenda := rest }, step_of_agenda ha, fun r _ => regValue_hardReset r _, rfl, rfl,
    fun a => ⟨memGet_nil a, memGet_nil a⟩, rfl⟩

/-! ## The operands of a pass (R23, R180, R305) -/

/-- The operands of a pass in flight are as they were, but for the tick of the timestamp where the pass ends. -/
structure KeepsOperands (s t : State) : Prop where
  width : t.width = s.width
  height : t.height = s.height
  ssrc : t.ssrc = s.ssrc
  tick : t.tsTick = s.tsTick
  ts_of_busy : t.txBusy = true → t.ts = s.ts
  ts_of_ended : t.txBusy = false → t.ts = s.ts + s.tsTick

/-- Where the pass goes on, it keeps its operands if it keeps them all, `TS` among them. -/
theorem KeepsOperands.of_busy {s t : State} (hb : t.txBusy = true) (hw : t.width = s.width)
    (hh : t.height = s.height) (hs : t.ssrc = s.ssrc) (hk : t.tsTick = s.tsTick) (ht : t.ts = s.ts) :
    KeepsOperands s t :=
  ⟨hw, hh, hs, hk, fun _ => ht, fun hidle => Bool.noConfusion (hb.symm.trans hidle)⟩

theorem KeepsPass.keepsOperands {s t : State} (h : KeepsPass s t) (hb : s.txBusy = true) : KeepsOperands s t :=
  .of_busy (h.busy.trans hb) h.width h.height h.ssrc h.tick h.ts

/-- The end of a pass moves `TS` by one tick and no other operand, whatever the sink answered (R180). -/
theorem keepsOperands_txline {s : State} (hb : s.txBusy = true) (a : SinkAnswer) :
    KeepsOperands s (txline a s) := by
  rcases txline_cases a s with ⟨-, e⟩ | ⟨-, -, e⟩ | ⟨-, -, -, e⟩ | ⟨-, -, -, e⟩ <;> rw [e]
  · exact (KeepsPass.refl s).keepsOperands hb
  · exact ⟨rfl, rfl, rfl, rfl, nofun, fun _ => rfl⟩
  · exact ⟨rfl, rfl, rfl, rfl, nofun, fun _ => rfl⟩
  · exact .of_busy hb rfl rfl rfl rfl rfl

/-- A step that builds a header is `ENCH` or a `TXLINE`, or it is an emitted word that does not come next. -/
theorem after_of_buildsHeader {i : Instr} (h : buildsHeader i = true) (s : State) :
    after i s = s ∨ (∃ o, after i s = handOut o (enchAdvance s)) ∨ ∃ a, after i s = txline a s := by
  have hword (last : Bool) (q : Half) (a : SinkAnswer) :
      txlineEmitting last q a s = s ∨ txlineEmitting last q a s = txline a s := (ite_eq_or_eq _ _ _).symm
  cases i with
  | ench line last ts ssrc n => exact .inr (.inl ⟨_, rfl⟩)
  | txline a => exact .inr (.inr ⟨a, rfl⟩)
  | pktLine q a => exact (hword false q a).imp_right fun e => .inr ⟨a, e⟩
  | pktLast q a => exact (hword true q a).imp_right fun e => .inr ⟨a, e⟩
  | _ => cases h

/-- Settles O52: a step that builds no header leaves the pass alone; `ENCH` moves `SEQ` only; and a `TXLINE` moves an
operand only where it ends the pass. -/
theorem passOperandsAreStable : Obligations.PassOperandsAreStable := by
  intro i s t h hb h4
  have hkeep : KeepsOperands s t := by
    rw [after_of_exec h]
    cases hh : buildsHeader i with
    | false => exact (keepsPass_after hb h4 hh).1.keepsOperands hb
    | true =>
      rcases after_of_buildsHeader hh s with e | ⟨o, e⟩ | ⟨a, e⟩ <;> rw [e]
      · exact (KeepsPass.refl s).keepsOperands hb
      · exact .of_busy hb rfl rfl rfl rfl rfl
      · exact keepsOperands_txline hb a
  exact ⟨hkeep.width, hkeep.height, hkeep.ssrc, hkeep.tick, hkeep.ts_of_busy, hkeep.ts_of_ended⟩

end Sys2Proof.Machine
end
